-- ==== Sys2Proof/Word.lean ====
section
/-! DEFINITION. The two widths the spec gives software-visible values: a byte of a stream or of row memory
(spec/00_scope.md R12) and a 32-bit host register (spec/10_state.md R48). -/

namespace Sys2Proof

/-- A byte: an integer in 0..255 (spec/00_scope.md R12). -/
abbrev Byte := BitVec 8

/-- A host register: 32 bits (spec/10_state.md R48). -/
abbrev Word := BitVec 32

end Sys2Proof
end

