-- ==== Sys2Proof/Config.lean ====
section
/-! DEFINITION. What an implementation or its platform fixes (the OPEN parameters of spec/00_scope.md R9), and the one
free value of the spec: what the ROW window reads while no row is ready. -/

namespace Sys2Proof

/-- The OPEN parameters of spec/00_scope.md R9, fixed for one machine and never written by it.
`undecodedBusError` is the platform's answer to an access the block does not decode (spec/48_host_interface.md R454,
"platform permitting"; spec/20_memory.md R85). -/
structure Config where
  /-- `IN_FIFO_DEPTH`, 1..65535 (spec/92_eei_decisions.md D6). -/
  inFifoDepth : Nat
  /-- `MAX_ROW_BYTES`, 4..2^32-1 (spec/92_eei_decisions.md D8). -/
  maxRowBytes : Nat
  /-- `BASE_ADDR`, platform-defined, aligned to 4096 (spec/20_memory.md R88). -/
  baseAddr : Nat
  /-- whether the platform gives a bus-error response to an access the block does not decode. -/
  undecodedBusError : Bool
deriving DecidableEq, Repr

namespace Config

/-- The ranges spec/00_scope.md R9 gives the OPEN parameters. -/
def wf (c : Config) : Bool :=
  decide (1 ≤ c.inFifoDepth) && decide (c.inFifoDepth ≤ 65535)
    && decide (4 ≤ c.maxRowBytes) && decide (c.maxRowBytes ≤ 4294967295)
    && decide (c.baseAddr % 4096 = 0)

/-- `ROW_WIN_SIZE`: `MAX_ROW_BYTES` rounded up to a multiple of 4 (spec/00_scope.md R9). -/
def rowWinSize (c : Config) : Nat := (c.maxRowBytes + 3) / 4 * 4

/-- The parameters of `State.reset`. DESIGN CHOICE (log entry 1): the spec leaves them OPEN; 64 is the depth of its
test vectors. No statement rests on these numbers: statements hold for every `Config` with `wf`. -/
def default : Config :=
  { inFifoDepth := 64, maxRowBytes := 4096, baseAddr := 0, undecodedBusError := true }

/-- FREE VALUE (log entry 2): what the n-th ROW window read made while ROW_READY = 0 returns (spec/10_state.md R62,
spec/93_implementation_defined.md U1: "a fresh draw per read; two reads may differ"). It has no body: nothing in Lean
can say which value it is. -/
opaque rowWindowDraw : Nat → Word

end Config

end Sys2Proof
end

