-- ==== Sys2Proof/Syntax.lean ====
section
/-! DEFINITION. The three instruction streams of the block (spec/30_encoding.md R120) as syntax: the formats of
spec/opcode_table.json, the host access, and `Instr`, one constructor per row of spec/opcode_table.json. -/

namespace Sys2Proof

/-- The formats of spec/opcode_table.json whose value is a number (spec/30_encoding.md R122, R124, R125, R127, R129,
R131, R132, R135); the eleventh format, `host_access`, is `HostAccess`. -/
inductive Format where
  | zlibHeader | blockHeader | storedHeader | storedPayload | dynHeader | cllField | clenSymbol | litlenSymbol
  | distSymbol | rowFilter
deriving DecidableEq, Repr

/-- The access widths `n` of spec/20_memory.md R80: 1, 2 or 4 bytes. -/
inductive AccessWidth where
  | b1 | b2 | b4
deriving DecidableEq, Repr

/-- `kind` of spec/30_encoding.md R136, a write with its 32-bit data. -/
inductive AccessOp where
  | read
  | write (data : Word)
deriving DecidableEq, Repr

/-- Format HOSTACC (spec/30_encoding.md R136): a host access as the block sees it, `offset` from `BASE_ADDR`. -/
structure HostAccess where
  op : AccessOp
  width : AccessWidth
  offset : Nat
deriving DecidableEq, Repr

/-- A host access as the host's bus carries it: `addr` is the bus address, `BASE_ADDR + offset` for an access to the
block (spec/20_memory.md R80, R88). -/
structure BusAccess where
  op : AccessOp
  width : AccessWidth
  addr : Nat
deriving DecidableEq, Repr

/-- One constructor per row of spec/opcode_table.json, in the table's order. The operands are the fields the row's
value carries; a symbol's extra bits (spec/30_encoding.md R128, R129, R132) are no part of its value and are read from
the stream by its meaning. -/
inductive Instr where
  /-- ZLIB_HDR_BAD_CM (spec/41_zlib_blocks.md R222). -/
  | zlibHdrBadCm (cmf flg : Byte)
  /-- ZLIB_HDR_BAD_CINFO (R223). -/
  | zlibHdrBadCinfo (cmf flg : Byte)
  /-- ZLIB_HDR_BAD_FCHECK (R224). -/
  | zlibHdrBadFcheck (cmf flg : Byte)
  /-- ZLIB_HDR_FDICT (R225). -/
  | zlibHdrFdict (cmf flg : Byte)
  /-- ZLIB_HDR (R221). -/
  | zlibHdr (cmf flg : Byte)
  /-- BLK_STORED (R228). -/
  | blkStored (bfinal : Bool)
  /-- BLK_FIXED (R232). -/
  | blkFixed (bfinal : Bool)
  /-- BLK_DYNAMIC (R233). -/
  | blkDynamic (bfinal : Bool)
  /-- BLK_RESERVED (R234). -/
  | blkReserved (bfinal : Bool)
  /-- STORED_HDR (R229). -/
  | storedHdr (len nlen : BitVec 16)
  /-- STORED_HDR_BAD_NLEN (R230). -/
  | storedHdrBadNlen (len nlen : BitVec 16)
  /-- STORED_BYTE (R231). -/
  | storedByte (v : Byte)
  /-- DYN_HDR (spec/42_huffman.md R253). -/
  | dynHdr (hlit hdist : BitVec 5) (hclen : BitVec 4)
  /-- DYN_HDR_BAD_COUNTS (R254). -/
  | dynHdrBadCounts (hlit hdist : BitVec 5) (hclen : BitVec 4)
  /-- CLL (R255). -/
  | cll (length : BitVec 3)
  /-- CL_LEN (R256). -/
  | clLen (length : BitVec 4)
  /-- CL_REPEAT_PREV (R257). -/
  | clRepeatPrev
  /-- CL_REPEAT_ZERO3 (R258). -/
  | clRepeatZero3
  /-- CL_REPEAT_ZERO11 (R259). -/
  | clRepeatZero11
  /-- LIT (spec/43_lz77.md R302). -/
  | lit (v : Byte)
  /-- EOB (R303). -/
  | eob
  /-- LEN_257 (R304). -/
  | len257
  /-- LEN_258 (R305). -/
  | len258
  /-- LEN_259 (R306). -/
  | len259
  /-- LEN_260 (R307). -/
  | len260
  /-- LEN_261 (R308). -/
  | len261
  /-- LEN_262 (R309). -/
  | len262
  /-- LEN_263 (R310). -/
  | len263
  /-- LEN_264 (R311). -/
  | len264
  /-- LEN_265 (R312). -/
  | len265
  /-- LEN_266 (R313). -/
  | len266
  /-- LEN_267 (R314). -/
  | len267
  /-- LEN_268 (R315). -/
  | len268
  /-- LEN_269 (R316). -/
  | len269
  /-- LEN_270 (R317). -/
  | len270
  /-- LEN_271 (R318). -/
  | len271
  /-- LEN_272 (R319). -/
  | len272
  /-- LEN_273 (R320). -/
  | len273
  /-- LEN_274 (R321). -/
  | len274
  /-- LEN_275 (R322). -/
  | len275
  /-- LEN_276 (R323). -/
  | len276
  /-- LEN_277 (R324). -/
  | len277
  /-- LEN_278 (R325). -/
  | len278
  /-- LEN_279 (R326). -/
  | len279
  /-- LEN_280 (R327). -/
  | len280
  /-- LEN_281 (R328). -/
  | len281
  /-- LEN_282 (R329). -/
  | len282
  /-- LEN_283 (R330). -/
  | len283
  /-- LEN_284 (R331). -/
  | len284
  /-- LEN_285 (R332). -/
  | len285
  /-- LITLEN_RSV_286 (R333). -/
  | litlenRsv286
  /-- LITLEN_RSV_287 (R334). -/
  | litlenRsv287
  /-- DIST_0 (R336). -/
  | dist0
  /-- DIST_1 (R337). -/
  | dist1
  /-- DIST_2 (R338). -/
  | dist2
  /-- DIST_3 (R339). -/
  | dist3
  /-- DIST_4 (R340). -/
  | dist4
  /-- DIST_5 (R341). -/
  | dist5
  /-- DIST_6 (R342). -/
  | dist6
  /-- DIST_7 (R343). -/
  | dist7
  /-- DIST_8 (R344). -/
  | dist8
  /-- DIST_9 (R345). -/
  | dist9
  /-- DIST_10 (R346). -/
  | dist10
  /-- DIST_11 (R347). -/
  | dist11
  /-- DIST_12 (R348). -/
  | dist12
  /-- DIST_13 (R349). -/
  | dist13
  /-- DIST_14 (R350). -/
  | dist14
  /-- DIST_15 (R351). -/
  | dist15
  /-- DIST_16 (R352). -/
  | dist16
  /-- DIST_17 (R353). -/
  | dist17
  /-- DIST_18 (R354). -/
  | dist18
  /-- DIST_19 (R355). -/
  | dist19
  /-- DIST_20 (R356). -/
  | dist20
  /-- DIST_21 (R357). -/
  | dist21
  /-- DIST_22 (R358). -/
  | dist22
  /-- DIST_23 (R359). -/
  | dist23
  /-- DIST_24 (R360). -/
  | dist24
  /-- DIST_25 (R361). -/
  | dist25
  /-- DIST_26 (R362). -/
  | dist26
  /-- DIST_27 (R363). -/
  | dist27
  /-- DIST_28 (R364). -/
  | dist28
  /-- DIST_29 (R365). -/
  | dist29
  /-- DIST_RSV_30 (R366). -/
  | distRsv30
  /-- DIST_RSV_31 (R367). -/
  | distRsv31
  /-- FILT_NONE (spec/45_defilter.md R405). -/
  | filtNone
  /-- FILT_SUB (R406). -/
  | filtSub
  /-- FILT_UP (R407). -/
  | filtUp
  /-- FILT_AVG (R408). -/
  | filtAvg
  /-- FILT_PAETH (R409). -/
  | filtPaeth
  /-- FILT_INVALID (R402). -/
  | filtInvalid (v : Byte)
  /-- CTRL_ABORT (spec/48_host_interface.md R443). -/
  | ctrlAbort
  /-- CTRL_START (R441). -/
  | ctrlStart
  /-- CTRL_ROW_ACK (R445). -/
  | ctrlRowAck
  /-- CTRL_EOI (R446). -/
  | ctrlEoi
  /-- IN_DATA_WRITE (R447). -/
  | inDataWrite (data : Word)
  /-- CFG_WIDTH_WRITE (R450). -/
  | cfgWidthWrite (data : Word)
  /-- CFG_HEIGHT_WRITE (R450). -/
  | cfgHeightWrite (data : Word)
  /-- CFG_BPP_WRITE (R450). -/
  | cfgBppWrite (data : Word)
  /-- REG_READ (R451). -/
  | regRead (offset : Nat)
  /-- ROW_READ (R452). -/
  | rowRead (width : AccessWidth) (offset : Nat)
  /-- IGNORED_WRITE (R453). -/
  | ignoredWrite (width : AccessWidth) (offset : Nat) (data : Word)
  /-- BUS_ERROR (R454). -/
  | busError (a : HostAccess)
deriving DecidableEq, Repr

end Sys2Proof
end

