-- ==== Sys2Proof/WellFormed.lean ====
section
/-! DEFINITION. Which terms of `Instr` stand for a row of spec/opcode_table.json: the row's `condition`, written on the
constructor's operands. Rows without a condition are well formed at every operand. -/

namespace Sys2Proof

/-- The width in bytes (spec/20_memory.md R80). -/
def AccessWidth.bytes : AccessWidth → Nat
  | .b1 => 1
  | .b2 => 2
  | .b4 => 4

/-- `CM = CMF[3:0]` (spec/30_encoding.md R122). -/
def zlibCm (cmf : Byte) : Nat := cmf.toNat % 16

/-- `CINFO = CMF[7:4]` (spec/30_encoding.md R122). -/
def zlibCinfo (cmf : Byte) : Nat := cmf.toNat / 16

/-- `(CMF × 256 + FLG) mod 31` (spec/30_encoding.md R122). -/
def zlibCheck (cmf flg : Byte) : Nat := (cmf.toNat * 256 + flg.toNat) % 31

/-- `FDICT = FLG[5]` (spec/30_encoding.md R122). -/
def zlibFdict (flg : Byte) : Bool := flg.getLsbD 5

/-- An access that spec/20_memory.md R83, R84 give a bus-error response whatever the platform: of width 1 or 2 below
0x1000, or at an offset that is not a multiple of its width. -/
def HostAccess.misaccess (a : HostAccess) : Bool :=
  (decide (a.offset < 0x1000) && decide (a.width ≠ .b4)) || decide (a.offset % a.width.bytes ≠ 0)

/-- An access inside the block's register space, offsets 0 to 0x1000 + ROW_WIN_SIZE - 1 (spec/20_memory.md R80, R85). -/
def HostAccess.decoded (rowWin : Nat) (a : HostAccess) : Bool :=
  decide (a.offset + a.width.bytes ≤ 0x1000 + rowWin)

/-- The offsets below 0x1000 whose aligned 32-bit writes are ignored whatever the data: STATUS, ERROR, ROWS_DONE to
MAX_ROW and the reserved offsets (spec/48_host_interface.md R453). -/
def writeIgnoredOffset (offset : Nat) : Bool :=
  decide (offset = 0x004) || decide (offset = 0x008) || (decide (0x01C ≤ offset) && decide (offset < 0x1000))

/-- The `condition` of IGNORED_WRITE in spec/opcode_table.json (spec/48_host_interface.md R453). -/
def ignoredWriteOk (rowWin : Nat) (w : AccessWidth) (offset : Nat) (data : Word) : Bool :=
  decide (offset % w.bytes = 0) &&
    (if offset < 0x1000 then
      decide (w = .b4) && (writeIgnoredOffset offset || (decide (offset = 0) && decide (data.toNat % 16 = 0)))
    else decide (offset - 0x1000 + w.bytes ≤ rowWin))

/-- `i` is an instance of its row of spec/opcode_table.json, in a block whose `ROW_WIN_SIZE` is `rowWin`. -/
def Instr.wf (rowWin : Nat) : Instr → Bool
  | .zlibHdrBadCm cmf _ => decide (zlibCm cmf ≠ 8)
  | .zlibHdrBadCinfo cmf _ => decide (zlibCm cmf = 8) && decide (7 < zlibCinfo cmf)
  | .zlibHdrBadFcheck cmf flg =>
    decide (zlibCm cmf = 8) && decide (zlibCinfo cmf ≤ 7) && decide (zlibCheck cmf flg ≠ 0)
  | .zlibHdrFdict cmf flg =>
    decide (zlibCm cmf = 8) && decide (zlibCinfo cmf ≤ 7) && decide (zlibCheck cmf flg = 0) && zlibFdict flg
  | .zlibHdr cmf flg =>
    decide (zlibCm cmf = 8) && decide (zlibCinfo cmf ≤ 7) && decide (zlibCheck cmf flg = 0) && !zlibFdict flg
  | .storedHdr len nlen => decide (nlen = len ^^^ 0xFFFF#16)
  | .storedHdrBadNlen len nlen => decide (nlen ≠ len ^^^ 0xFFFF#16)
  | .dynHdr hlit hdist _ => decide (hlit.toNat ≤ 29) && decide (hdist.toNat ≤ 29)
  | .dynHdrBadCounts hlit hdist _ => decide (29 < hlit.toNat) || decide (29 < hdist.toNat)
  | .filtInvalid v => decide (5 ≤ v.toNat)
  | .regRead offset => decide (offset < 0x1000) && decide (offset % 4 = 0)
  | .rowRead w offset =>
    decide (0x1000 ≤ offset) && decide (offset % w.bytes = 0) && decide (offset - 0x1000 + w.bytes ≤ rowWin)
  | .ignoredWrite w offset data => ignoredWriteOk rowWin w offset data
  | .busError a => a.misaccess || !a.decoded rowWin
  | .blkStored _ => true
  | .blkFixed _ => true
  | .blkDynamic _ => true
  | .blkReserved _ => true
  | .storedByte _ => true
  | .cll _ => true
  | .clLen _ => true
  | .clRepeatPrev => true
  | .clRepeatZero3 => true
  | .clRepeatZero11 => true
  | .lit _ => true
  | .eob => true
  | .len257 => true
  | .len258 => true
  | .len259 => true
  | .len260 => true
  | .len261 => true
  | .len262 => true
  | .len263 => true
  | .len264 => true
  | .len265 => true
  | .len266 => true
  | .len267 => true
  | .len268 => true
  | .len269 => true
  | .len270 => true
  | .len271 => true
  | .len272 => true
  | .len273 => true
  | .len274 => true
  | .len275 => true
  | .len276 => true
  | .len277 => true
  | .len278 => true
  | .len279 => true
  | .len280 => true
  | .len281 => true
  | .len282 => true
  | .len283 => true
  | .len284 => true
  | .len285 => true
  | .litlenRsv286 => true
  | .litlenRsv287 => true
  | .dist0 => true
  | .dist1 => true
  | .dist2 => true
  | .dist3 => true
  | .dist4 => true
  | .dist5 => true
  | .dist6 => true
  | .dist7 => true
  | .dist8 => true
  | .dist9 => true
  | .dist10 => true
  | .dist11 => true
  | .dist12 => true
  | .dist13 => true
  | .dist14 => true
  | .dist15 => true
  | .dist16 => true
  | .dist17 => true
  | .dist18 => true
  | .dist19 => true
  | .dist20 => true
  | .dist21 => true
  | .dist22 => true
  | .dist23 => true
  | .dist24 => true
  | .dist25 => true
  | .dist26 => true
  | .dist27 => true
  | .dist28 => true
  | .dist29 => true
  | .distRsv30 => true
  | .distRsv31 => true
  | .filtNone => true
  | .filtSub => true
  | .filtUp => true
  | .filtAvg => true
  | .filtPaeth => true
  | .ctrlAbort => true
  | .ctrlStart => true
  | .ctrlRowAck => true
  | .ctrlEoi => true
  | .inDataWrite _ => true
  | .cfgWidthWrite _ => true
  | .cfgHeightWrite _ => true
  | .cfgBppWrite _ => true

end Sys2Proof
end

