-- ==== Sys2Proof/Decode.lean ====
section
/-! DEFINITION. The decoder and the encoder of the three instruction streams, from the same tables of
spec/30_encoding.md: a stream element is a number of a format (R139), a host access is its register-map row (R136).
Bits of a field are least significant first, bits of a Huffman code most significant first (spec/20_memory.md R81). -/

namespace Sys2Proof

/-! ### Bits (spec/00_scope.md R11, spec/20_memory.md R81) -/

/-- The low `n` bits of `v`, least significant first: the order in which a field of a byte is read. -/
def natBits : Nat → Nat → List Bool
  | 0, _ => []
  | n + 1, v => (v % 2 == 1) :: natBits n (v / 2)

/-- The number whose bit i is the i-th element (spec/40_bit_reader.md R202). -/
def bitsToNat : List Bool → Nat
  | [] => 0
  | b :: bs => b.toNat + 2 * bitsToNat bs

/-- The low `n` bits of `v`, most significant first: the order in which a Huffman code is read. -/
def msbBits (n v : Nat) : List Bool := (natBits n v).reverse

/-- The bits of a byte in the order they are consumed. -/
def byteBits (b : Byte) : List Bool := natBits 8 b.toNat

/-! ### Names of a rejection -/

/-- Why a number of a format is no instruction: it has more bits than the format, or the format has no row for it
(spec/30_encoding.md R139: `clen_symbol` 19..31 and `litlen_symbol` 288..511). -/
inductive DecodeError where
  | tooWide (f : Format) (v : Nat)
  | noRow (f : Format) (v : Nat)
deriving DecidableEq, Repr

/-- How many bits a number of the format has (the value `v` of spec/opcode_table.json). -/
def Format.bits : Format → Nat
  | .zlibHeader => 16
  | .blockHeader => 3
  | .storedHeader => 32
  | .storedPayload => 8
  | .dynHeader => 14
  | .cllField => 3
  | .clenSymbol => 5
  | .litlenSymbol => 9
  | .distSymbol => 5
  | .rowFilter => 8

/-! ### The decoder -/

/-- Literal/length symbols 257..287 in order (spec/30_encoding.md R127, R128). -/
def litlenTail : List Instr :=
  [.len257, .len258, .len259, .len260, .len261, .len262, .len263, .len264,
   .len265, .len266, .len267, .len268, .len269, .len270, .len271, .len272,
   .len273, .len274, .len275, .len276, .len277, .len278, .len279, .len280,
   .len281, .len282, .len283, .len284, .len285, .litlenRsv286, .litlenRsv287]

/-- Distance symbols 0..31 in order (spec/30_encoding.md R129). -/
def distRows : List Instr :=
  [.dist0, .dist1, .dist2, .dist3, .dist4, .dist5, .dist6, .dist7, .dist8, .dist9,
   .dist10, .dist11, .dist12, .dist13, .dist14, .dist15, .dist16, .dist17, .dist18, .dist19,
   .dist20, .dist21, .dist22, .dist23, .dist24, .dist25, .dist26, .dist27, .dist28, .dist29,
   .distRsv30, .distRsv31]

/-- `zlib_header`, `v = CMF × 256 + FLG`; the checks in the order CM, CINFO, FCHECK, FDICT (spec/41_zlib_blocks.md
R226). -/
def decodeZlib (cmf flg : Byte) : Instr :=
  if zlibCm cmf ≠ 8 then .zlibHdrBadCm cmf flg
  else if 7 < zlibCinfo cmf then .zlibHdrBadCinfo cmf flg
  else if zlibCheck cmf flg ≠ 0 then .zlibHdrBadFcheck cmf flg
  else if zlibFdict flg then .zlibHdrFdict cmf flg
  else .zlibHdr cmf flg

/-- `block_header`, `v = BFINAL + 2 × BTYPE` (spec/30_encoding.md R124). -/
def decodeBlock (v : Nat) : Instr :=
  let bfinal := v % 2 == 1
  if v / 2 = 0 then .blkStored bfinal
  else if v / 2 = 1 then .blkFixed bfinal
  else if v / 2 = 2 then .blkDynamic bfinal
  else .blkReserved bfinal

/-- `stored_header`, `v = LEN + 65536 × NLEN` (spec/30_encoding.md R125). -/
def decodeStored (len nlen : BitVec 16) : Instr :=
  if nlen = len ^^^ 0xFFFF#16 then .storedHdr len nlen else .storedHdrBadNlen len nlen

/-- `dyn_header`, `v = HLIT + 32 × HDIST + 1024 × HCLEN` (spec/30_encoding.md R131). -/
def decodeDyn (hlit hdist : BitVec 5) (hclen : BitVec 4) : Instr :=
  if hlit.toNat ≤ 29 ∧ hdist.toNat ≤ 29 then .dynHdr hlit hdist hclen else .dynHdrBadCounts hlit hdist hclen

/-- `clen_symbol` (spec/30_encoding.md R132); 19..31 have no row. -/
def decodeClen (v : Nat) : Option Instr :=
  if v < 16 then some (.clLen (BitVec.ofNat 4 v))
  else if v = 16 then some .clRepeatPrev
  else if v = 17 then some .clRepeatZero3
  else if v = 18 then some .clRepeatZero11
  else none

/-- `litlen_symbol` (spec/30_encoding.md R127); 288..511 have no row. -/
def decodeLitlen (v : Nat) : Option Instr :=
  if v < 256 then some (.lit (BitVec.ofNat 8 v))
  else if v = 256 then some .eob
  else litlenTail[v - 257]?

/-- `row_filter` (spec/30_encoding.md R135). -/
def decodeFilter (v : Nat) : Instr :=
  if v = 0 then .filtNone
  else if v = 1 then .filtSub
  else if v = 2 then .filtUp
  else if v = 3 then .filtAvg
  else if v = 4 then .filtPaeth
  else .filtInvalid (BitVec.ofNat 8 v)

/-- The row of format `f` that matches the number `v` (spec/30_encoding.md R139). -/
def decodeRow (f : Format) (v : Nat) : Option Instr :=
  match f with
  | .zlibHeader => some (decodeZlib (BitVec.ofNat 8 (v / 256)) (BitVec.ofNat 8 v))
  | .blockHeader => some (decodeBlock v)
  | .storedHeader => some (decodeStored (BitVec.ofNat 16 v) (BitVec.ofNat 16 (v / 65536)))
  | .storedPayload => some (.storedByte (BitVec.ofNat 8 v))
  | .dynHeader => some (decodeDyn (BitVec.ofNat 5 v) (BitVec.ofNat 5 (v / 32)) (BitVec.ofNat 4 (v / 1024)))
  | .cllField => some (.cll (BitVec.ofNat 3 v))
  | .clenSymbol => decodeClen v
  | .litlenSymbol => decodeLitlen v
  | .distSymbol => distRows[v]?
  | .rowFilter => some (decodeFilter v)

/-- The decoder of a stream element, total on every number, rejecting by name. -/
def decodeField (f : Format) (v : Nat) : Except DecodeError Instr :=
  if v < 2 ^ f.bits then
    match decodeRow f v with
    | some i => .ok i
    | none => .error (.noRow f v)
  else .error (.tooWide f v)

/-- A 32-bit write to CTRL: every row whose bit is set, in the order in which they are performed (spec/30_encoding.md
R139, spec/48_host_interface.md R444). -/
def decodeCtrl (data : Word) : List Instr :=
  if data.getLsbD 1 then [.ctrlAbort]
  else if data.toNat % 16 = 0 then [.ignoredWrite .b4 0x000 data]
  else
    (if data.getLsbD 0 then [.ctrlStart] else []) ++ (if data.getLsbD 3 then [.ctrlRowAck] else [])
      ++ (if data.getLsbD 2 then [.ctrlEoi] else [])

/-- The decoder of a host access: the register map of spec/10_state.md R48, total on every access. -/
def decodeAccess (rowWin : Nat) (a : HostAccess) : List Instr :=
  if a.misaccess || !a.decoded rowWin then [.busError a]
  else
    match a.op with
    | .read => if a.offset < 0x1000 then [.regRead a.offset] else [.rowRead a.width a.offset]
    | .write data =>
      if a.offset = 0x000 then decodeCtrl data
      else if a.offset = 0x00C then [.cfgWidthWrite data]
      else if a.offset = 0x010 then [.cfgHeightWrite data]
      else if a.offset = 0x014 then [.cfgBppWrite data]
      else if a.offset = 0x018 then [.inDataWrite data]
      else [.ignoredWrite a.width a.offset data]

/-- The encoded form of an instruction: a number of a stream format, or a host access. -/
inductive Code where
  | field (f : Format) (v : Nat)
  | access (a : HostAccess)
deriving DecidableEq, Repr

/-- The decoder of every stream: the instructions the code stands for, in the order in which they are performed (one,
but for a CTRL write with several command bits). -/
def decode (rowWin : Nat) : Code → Except DecodeError (List Instr)
  | .field f v => (decodeField f v).map fun i => [i]
  | .access a => .ok (decodeAccess rowWin a)

/-! ### The encoder -/

/-- A 32-bit register write. -/
def regWrite (offset : Nat) (data : Word) : Code := .access ⟨.write data, .b4, offset⟩

/-- The encoded form of an instruction, from the tables of spec/30_encoding.md R122 to R136. -/
def encode : Instr → Code
  | .zlibHdrBadCm cmf flg => .field .zlibHeader (cmf.toNat * 256 + flg.toNat)
  | .zlibHdrBadCinfo cmf flg => .field .zlibHeader (cmf.toNat * 256 + flg.toNat)
  | .zlibHdrBadFcheck cmf flg => .field .zlibHeader (cmf.toNat * 256 + flg.toNat)
  | .zlibHdrFdict cmf flg => .field .zlibHeader (cmf.toNat * 256 + flg.toNat)
  | .zlibHdr cmf flg => .field .zlibHeader (cmf.toNat * 256 + flg.toNat)
  | .blkStored bfinal => .field .blockHeader (bfinal.toNat + 2 * 0)
  | .blkFixed bfinal => .field .blockHeader (bfinal.toNat + 2 * 1)
  | .blkDynamic bfinal => .field .blockHeader (bfinal.toNat + 2 * 2)
  | .blkReserved bfinal => .field .blockHeader (bfinal.toNat + 2 * 3)
  | .storedHdr len nlen => .field .storedHeader (len.toNat + 65536 * nlen.toNat)
  | .storedHdrBadNlen len nlen => .field .storedHeader (len.toNat + 65536 * nlen.toNat)
  | .storedByte v => .field .storedPayload v.toNat
  | .dynHdr hlit hdist hclen => .field .dynHeader (hlit.toNat + 32 * hdist.toNat + 1024 * hclen.toNat)
  | .dynHdrBadCounts hlit hdist hclen => .field .dynHeader (hlit.toNat + 32 * hdist.toNat + 1024 * hclen.toNat)
  | .cll length => .field .cllField length.toNat
  | .clLen length => .field .clenSymbol length.toNat
  | .clRepeatPrev => .field .clenSymbol 16
  | .clRepeatZero3 => .field .clenSymbol 17
  | .clRepeatZero11 => .field .clenSymbol 18
  | .lit v => .field .litlenSymbol v.toNat
  | .eob => .field .litlenSymbol 256
  | .len257 => .field .litlenSymbol 257
  | .len258 => .field .litlenSymbol 258
  | .len259 => .field .litlenSymbol 259
  | .len260 => .field .litlenSymbol 260
  | .len261 => .field .litlenSymbol 261
  | .len262 => .field .litlenSymbol 262
  | .len263 => .field .litlenSymbol 263
  | .len264 => .field .litlenSymbol 264
  | .len265 => .field .litlenSymbol 265
  | .len266 => .field .litlenSymbol 266
  | .len267 => .field .litlenSymbol 267
  | .len268 => .field .litlenSymbol 268
  | .len269 => .field .litlenSymbol 269
  | .len270 => .field .litlenSymbol 270
  | .len271 => .field .litlenSymbol 271
  | .len272 => .field .litlenSymbol 272
  | .len273 => .field .litlenSymbol 273
  | .len274 => .field .litlenSymbol 274
  | .len275 => .field .litlenSymbol 275
  | .len276 => .field .litlenSymbol 276
  | .len277 => .field .litlenSymbol 277
  | .len278 => .field .litlenSymbol 278
  | .len279 => .field .litlenSymbol 279
  | .len280 => .field .litlenSymbol 280
  | .len281 => .field .litlenSymbol 281
  | .len282 => .field .litlenSymbol 282
  | .len283 => .field .litlenSymbol 283
  | .len284 => .field .litlenSymbol 284
  | .len285 => .field .litlenSymbol 285
  | .litlenRsv286 => .field .litlenSymbol 286
  | .litlenRsv287 => .field .litlenSymbol 287
  | .dist0 => .field .distSymbol 0
  | .dist1 => .field .distSymbol 1
  | .dist2 => .field .distSymbol 2
  | .dist3 => .field .distSymbol 3
  | .dist4 => .field .distSymbol 4
  | .dist5 => .field .distSymbol 5
  | .dist6 => .field .distSymbol 6
  | .dist7 => .field .distSymbol 7
  | .dist8 => .field .distSymbol 8
  | .dist9 => .field .distSymbol 9
  | .dist10 => .field .distSymbol 10
  | .dist11 => .field .distSymbol 11
  | .dist12 => .field .distSymbol 12
  | .dist13 => .field .distSymbol 13
  | .dist14 => .field .distSymbol 14
  | .dist15 => .field .distSymbol 15
  | .dist16 => .field .distSymbol 16
  | .dist17 => .field .distSymbol 17
  | .dist18 => .field .distSymbol 18
  | .dist19 => .field .distSymbol 19
  | .dist20 => .field .distSymbol 20
  | .dist21 => .field .distSymbol 21
  | .dist22 => .field .distSymbol 22
  | .dist23 => .field .distSymbol 23
  | .dist24 => .field .distSymbol 24
  | .dist25 => .field .distSymbol 25
  | .dist26 => .field .distSymbol 26
  | .dist27 => .field .distSymbol 27
  | .dist28 => .field .distSymbol 28
  | .dist29 => .field .distSymbol 29
  | .distRsv30 => .field .distSymbol 30
  | .distRsv31 => .field .distSymbol 31
  | .filtNone => .field .rowFilter 0
  | .filtSub => .field .rowFilter 1
  | .filtUp => .field .rowFilter 2
  | .filtAvg => .field .rowFilter 3
  | .filtPaeth => .field .rowFilter 4
  | .filtInvalid v => .field .rowFilter v.toNat
  | .ctrlAbort => regWrite 0x000 0x2#32
  | .ctrlStart => regWrite 0x000 0x1#32
  | .ctrlRowAck => regWrite 0x000 0x8#32
  | .ctrlEoi => regWrite 0x000 0x4#32
  | .inDataWrite data => regWrite 0x018 data
  | .cfgWidthWrite data => regWrite 0x00C data
  | .cfgHeightWrite data => regWrite 0x010 data
  | .cfgBppWrite data => regWrite 0x014 data
  | .regRead offset => .access ⟨.read, .b4, offset⟩
  | .rowRead w offset => .access ⟨.read, w, offset⟩
  | .ignoredWrite w offset data => .access ⟨.write data, w, offset⟩
  | .busError a => .access a

/-! ### The bits of an element in the compressed stream -/

/-- The fixed literal/length code of symbol `s` (spec/30_encoding.md R130), first bit read first. -/
def fixedLitCode (s : Nat) : List Bool :=
  if s < 144 then msbBits 8 (0x30 + s)
  else if s < 256 then msbBits 9 (0x190 + (s - 144))
  else if s < 280 then msbBits 7 (s - 256)
  else msbBits 8 (0xC0 + (s - 280))

/-- The fixed distance code of symbol `s` (spec/30_encoding.md R130). -/
def fixedDistCode (s : Nat) : List Bool := msbBits 5 s

/-- A code-length code under which every code-length symbol can be written: lengths 4 for symbols 0..12 and 5 for
13..18, canonical (spec/42_huffman.md R260). DESIGN CHOICE (log entry 9): used only where an element is placed for the
next step. -/
def placedClenLengths : List (BitVec 3) := List.replicate 13 4#3 ++ List.replicate 6 5#3

/-- The canonical code of code-length symbol `s` under `placedClenLengths`. -/
def placedClenCode (s : Nat) : List Bool := if s < 13 then msbBits 4 s else msbBits 5 (26 + (s - 13))

/-- The bits of the element `v` of format `f` in stream order (spec/30_encoding.md R121): fields least significant bit
first, CMF before FLG, symbols by their code (the fixed codes; for a code-length symbol, `placedClenCode`). -/
def elementBits (f : Format) (v : Nat) : List Bool :=
  match f with
  | .zlibHeader => natBits 8 (v / 256) ++ natBits 8 (v % 256)
  | .litlenSymbol => fixedLitCode v
  | .distSymbol => fixedDistCode v
  | .clenSymbol => placedClenCode v
  | .blockHeader => natBits 3 v
  | .storedHeader => natBits 32 v
  | .storedPayload => natBits 8 v
  | .dynHeader => natBits 14 v
  | .cllField => natBits 3 v
  | .rowFilter => natBits 8 v

/-- Bits packed into bytes, first bit in bit 0 of the first byte, the last byte filled with zeros
(spec/20_memory.md R81). -/
def packBits : Nat → List Bool → List Byte
  | 0, _ => []
  | n + 1, bs => BitVec.ofNat 8 (bitsToNat (bs.take 8)) :: packBits n (bs.drop 8)

/-! ### The words of spec/opcode_table.json -/

/-- The code a word of spec/opcode_table.json stands for. The table numbers each FORMAT's values from 0, so a word
does not name its format: the length and the value choose it here, one format per word (log entry 9). A host_access
word is an offset: a write to the registers that take one (START at CTRL), a read elsewhere. -/
def tableCode (nbits w : Nat) : Option Code :=
  if nbits ≤ 8 then
    if w = 0 ∨ w = 2 ∨ w = 4 ∨ w = 6 then some (.field .blockHeader w)
    else if w = 1 ∨ w = 3 then some (.field .rowFilter w)
    else if w = 16 ∨ w = 17 ∨ w = 18 then some (.field .clenSymbol w)
    else some (.field .distSymbol w)
  else if nbits ≤ 16 then
    if 18 ≤ w ∧ w < 30 then some (.field .distSymbol w)
    else if w < 512 then some (.field .litlenSymbol w)
    else some (.field .zlibHeader w)
  else if nbits ≤ 32 then
    if w = 0x000 then some (regWrite 0x000 0x1#32)
    else if w = 0x00C ∨ w = 0x010 ∨ w = 0x014 ∨ w = 0x018 then some (regWrite w 0#32)
    else some (.access ⟨.read, .b4, w⟩)
  else none

/-- The instruction the decoder reads from a word of spec/opcode_table.json. -/
def decodeTableWord (nbits w : Nat) : Option Instr :=
  match tableCode nbits w with
  | none => none
  | some code =>
    match decode Config.default.rowWinSize code with
    | .ok [i] => some i
    | _ => none

end Sys2Proof
end

