-- ==== Sys2Proof/Machine/State.lean ====
section
/-! DEFINITION. The whole state of the block (spec/10_state.md R30 to R62) as plain data, its reset value
(spec/10_state.md R65, spec/70_reset_and_hazards.md R550), and the reasons a step can stop. -/

namespace Sys2Proof.Machine

/-- `state` (spec/10_state.md R31). -/
inductive SessionState where
  | idle | run | done | error
deriving DecidableEq, Repr

/-- The engine's phase (spec/10_state.md R33). `pNone` is "IDLE has no phase" (R65): the engine has no continuation.
`pDynExtra` is the part of the spec's P_DYN_LENS in which a repeat symbol's extra bits are read
(spec/00_scope.md R14: the continuation in any form that resumes identically). -/
inductive Phase where
  | pNone | pZhdr | pBhdr | pStoredHdr | pStoredCopy | pDynCounts | pDynClen | pDynLens | pDynExtra
  | pSym | pLenExtra | pDist | pDistExtra | pCopy
deriving DecidableEq, Repr

/-- `ftype`, the filter type of a row, 0..4 (spec/10_state.md R45, spec/30_encoding.md R135). -/
inductive FilterType where
  | none | sub | up | avg | paeth
deriving DecidableEq, Repr

/-- The status of a Huffman table (spec/42_huffman.md R261). -/
inductive TableStatus where
  | empty | complete | single1 | incomplete | oversub
deriving DecidableEq, Repr

/-- A Huffman table (spec/10_state.md R40): entry l of `count` is the number of codes of length l (entry 0, the symbols
without a code, is 0), `symbol` the coded symbols in canonical order. -/
structure HuffTable where
  count : List Nat
  symbol : List Nat
  status : TableStatus
deriving DecidableEq, Repr

/-- A byte memory: the cells that differ from what an unlisted address reads as, addresses strictly rising. -/
abbrev Memory := List Host.Cell

/-- CFG_WIDTH, CFG_HEIGHT, CFG_BPP (spec/10_state.md R52 to R54). -/
structure CfgRegs where
  cfgWidth : Word
  cfgHeight : Word
  cfgBpp : BitVec 3
deriving DecidableEq, Repr

/-- `state` and the latched session configuration (spec/10_state.md R31, R32). -/
structure Session where
  state : SessionState
  width : Word
  height : Word
  bpp : BitVec 3
  rowbytes : Nat
  stride : Nat
deriving DecidableEq, Repr

/-- The Bit Reader (spec/10_state.md R34 to R36, R42, R46). `fieldBits` are the bits already read of the field being
read: its length is R42's count and `bitsToNat` of it R42's partial value. `bytesTaken` is the unbounded number of input
bytes taken in this session, on which the bit position (R33, spec/40_bit_reader.md R204) and `err_bits`
(spec/60_exceptions.md R503) rest; `in_count` is it modulo 2^32 (log entry 7). -/
structure Reader where
  curByte : Byte
  nbits : Nat
  fifo : List Byte
  eoi : Bool
  inCount : Word
  bytesTaken : Nat
  fieldBits : List Bool
deriving DecidableEq, Repr

/-- Tree-traversal registers (spec/10_state.md R41): the locals of `Decode` (spec/42_huffman.md R268). -/
structure Traversal where
  code : Nat
  first : Nat
  index : Nat
  len : Nat
deriving DecidableEq, Repr

/-- The Inflate Engine's registers (spec/10_state.md R33, R37, R38, R43, R46, R50). `sym` is INFLATE's local `sym` or
`dsym`, the symbol whose extra bits are being read. -/
structure Engine where
  phase : Phase
  needInput : Bool
  bfinal : Bool
  btype : BitVec 2
  finalSeen : Bool
  lenRem : BitVec 16
  sym : BitVec 9
  copyLen : BitVec 9
  copyDist : BitVec 16
  outCount : Word
deriving DecidableEq, Repr

/-- Dynamic-header registers (spec/10_state.md R39). `clIdx` is the local k of DYNHEADER (spec/42_huffman.md R253);
`lens` holds the entries filled so far, so that R39's `li` is its length. -/
structure DynHeader where
  hlit : Nat
  hdist : Nat
  hclen : Nat
  cl : List (BitVec 3)
  clIdx : Nat
  lens : List (BitVec 4)
deriving DecidableEq, Repr

/-- The three Huffman tables (spec/10_state.md R40). -/
structure Tables where
  lit : HuffTable
  dist : HuffTable
  clt : HuffTable
deriving DecidableEq, Repr

/-- The sliding window (spec/10_state.md R44). -/
structure Window where
  win : Memory
  wp : BitVec 15
  hist : Nat
deriving DecidableEq, Repr

/-- Row state (spec/10_state.md R45). `pending` is the argument of the `RowByte(v)` call in progress
(spec/43_lz77.md R301): the byte of the row stream that has been emitted and not yet reconstructed. -/
structure Rows where
  cur : Memory
  prior : Memory
  col : Nat
  ftype : FilterType
  rowsDone : Word
  rowReady : Bool
  pending : Option Byte
deriving DecidableEq, Repr

/-- The error record (spec/10_state.md R47). -/
structure ErrorRecord where
  kind : BitVec 3
  cause : BitVec 8
  bits : BitVec 4
deriving DecidableEq, Repr

/-- The response the host's bus gave to its last access: none yet, a completed write, a completed read with its value
(zero-extended from the access width), or a bus error (spec/20_memory.md R83). -/
inductive HostResponse where
  | none
  | written
  | value (v : Word)
  | busError
deriving DecidableEq, Repr

/-- The host agent (spec/00_scope.md R8), the MODEL's own fields: the accesses it has still to perform, in program
order (spec/20_memory.md R90), the response to the last one, and how many free values ROW window reads have drawn. -/
structure HostPort where
  queue : List BusAccess
  resp : HostResponse
  draws : Nat
deriving DecidableEq, Repr

/-- The state of the machine: the parameters of the implementation, the block, and the host agent. -/
structure State where
  cfg : Config
  regs : CfgRegs
  ses : Session
  rd : Reader
  trav : Traversal
  eng : Engine
  dyn : DynHeader
  tab : Tables
  win : Window
  row : Rows
  err : ErrorRecord
  host : HostPort
deriving DecidableEq, Repr

/-- Why the machine stops. -/
inductive Fault where
  /-- Raised by the engine's fetch (Machine/Engine.lean): a number read from a stream has no row in
  spec/opcode_table.json. spec/30_encoding.md R139 says it cannot occur; only states no run reaches raise it. Safe. -/
  | noRow (f : Format) (v : Nat)
deriving DecidableEq, Repr

/-- Why a step has no meaning. -/
inductive Refusal where
  /-- Raised by `exec` for an instruction whose meaning is not written. Safe. -/
  | notModelled (mnemonic : String)
  /-- Raised by BUS_ERROR and by the host port for an access the block does not decode, where the platform gives no
  bus-error response (`Config.undecodedBusError = false`): "what a host access there does is the platform's"
  (spec/20_memory.md R85; spec/93_implementation_defined.md U4: refuse). Safe. -/
  | platformAccess
deriving DecidableEq, Repr

/-- A table with no code: what the three tables hold before a block builds them. DESIGN CHOICE (log entry 3). -/
def HuffTable.unbuilt : HuffTable := { count := List.replicate 16 0, symbol := [], status := .empty }

/-- The machine after hardware reset, for an implementation with the parameters `c` (spec/10_state.md R65). The values
R65 leaves unspecified are zero or empty: DESIGN CHOICE (log entry 3). -/
def State.resetOf (c : Config) : State where
  cfg := c
  regs := { cfgWidth := 0#32, cfgHeight := 0#32, cfgBpp := 0#3 }
  ses := { state := .idle, width := 0#32, height := 0#32, bpp := 0#3, rowbytes := 0, stride := 0 }
  rd := { curByte := 0#8, nbits := 0, fifo := [], eoi := false, inCount := 0#32, bytesTaken := 0, fieldBits := [] }
  trav := { code := 0, first := 0, index := 0, len := 1 }
  eng :=
    { phase := .pNone, needInput := false, bfinal := false, btype := 0#2, finalSeen := false, lenRem := 0#16,
      sym := 0#9, copyLen := 0#9, copyDist := 0#16, outCount := 0#32 }
  dyn := { hlit := 0, hdist := 0, hclen := 0, cl := List.replicate 19 0#3, clIdx := 0, lens := [] }
  tab := { lit := HuffTable.unbuilt, dist := HuffTable.unbuilt, clt := HuffTable.unbuilt }
  win := { win := [], wp := 0#15, hist := 0 }
  row := { cur := [], prior := [], col := 0, ftype := .none, rowsDone := 0#32, rowReady := false, pending := none }
  err := { kind := 0#3, cause := 0#8, bits := 0#4 }
  host := { queue := [], resp := .none, draws := 0 }

/-- The machine right after hardware reset (spec/70_reset_and_hazards.md R550), with the parameters of
`Config.default` (log entry 1). -/
def State.reset : State := State.resetOf Config.default

end Sys2Proof.Machine
end

