-- ==== Sys2Proof/Machine/Ops.lean ====
section
/-! DEFINITION. The named operations every meaning is written over: byte memories, the error entry (the block's trap,
spec/60_exceptions.md R503) and the two ways out of it (R505), the window, `Emit`, the end of a block and of the
stream, and the row commit. -/

namespace Sys2Proof.Machine

/-! ### Outcomes -/

/-- A machine outcome. -/
abbrev Result := Host.Outcome State Fault Refusal

/-- Go on with `f` from a next state; a fault or a refusal stays. -/
def andThen (o : Result) (f : State → Result) : Result :=
  match o with
  | .next s => f s
  | .fault r => .fault r
  | .refused r => .refused r

/-! ### Byte memories -/

/-- What an address that is not listed reads as. DESIGN CHOICE (log entry 4): the spec gives `win`, `cur` and `prior`
no reset value and never lets such a byte be observed (spec/10_state.md R65, spec/20_memory.md R96). -/
def Memory.unlisted : Byte := 0#8

namespace Memory

/-- The byte at address `a`. -/
def read (m : Memory) (a : Nat) : Byte :=
  match m with
  | [] => unlisted
  | (k, v) :: rest => if k = a then v else read rest a

/-- The cell for a byte, where it is listed. -/
def cell (a : Nat) (v : Byte) : Memory := if v = unlisted then [] else [(a, v)]

/-- Write one byte, keeping addresses rising and listing no byte that reads as unlisted. -/
def write (m : Memory) (a : Nat) (v : Byte) : Memory :=
  match m with
  | [] => cell a v
  | (k, w) :: rest =>
    if k < a then (k, w) :: write rest a v
    else if k = a then cell a v ++ rest
    else cell a v ++ (k, w) :: rest

/-- The canonical form: addresses strictly rising, from `lo` on and below `hi`, no listed byte reads as unlisted. -/
def wfFrom (lo hi : Nat) : Memory → Bool
  | [] => true
  | (k, v) :: rest => decide (lo ≤ k) && decide (k < hi) && decide (v ≠ unlisted) && wfFrom (k + 1) hi rest

/-- The canonical form of a memory of `size` bytes. -/
def wf (size : Nat) (m : Memory) : Bool := wfFrom 0 size m

/-- The first `n` bytes of `src` over those of `dst`. -/
def copyBelow (n : Nat) (src dst : Memory) : Memory :=
  src.filter (fun c => decide (c.1 < n)) ++ dst.filter (fun c => decide (n ≤ c.1))

end Memory

/-! ### Errors: entry and causes (spec/60_exceptions.md R501 to R503) -/

/-- The causes an error can record (spec/60_exceptions.md R502). -/
inductive Cause where
  | zlibCm | zlibCinfo | zlibFcheck | zlibFdict | btypeReserved | storedNlen | dynCounts | clenCodeBad
  | repeatNoPrev | repeatOverrun | noEobCode | litlenCodeBad | distCodeBad | invalidCode | litlenSymReserved
  | distSymReserved | distTooFar | truncated | filterTypeInvalid | imageDataShort | cfgZeroDimension | cfgBpp
  | cfgRowTooLong | inOverflow
deriving DecidableEq, Repr

/-- ERROR.CAUSE (spec/60_exceptions.md R502). -/
def Cause.code : Cause → BitVec 8
  | .zlibCm => 0x01#8
  | .zlibCinfo => 0x02#8
  | .zlibFcheck => 0x03#8
  | .zlibFdict => 0x04#8
  | .btypeReserved => 0x05#8
  | .storedNlen => 0x06#8
  | .dynCounts => 0x07#8
  | .clenCodeBad => 0x08#8
  | .repeatNoPrev => 0x09#8
  | .repeatOverrun => 0x0A#8
  | .noEobCode => 0x0B#8
  | .litlenCodeBad => 0x0C#8
  | .distCodeBad => 0x0D#8
  | .invalidCode => 0x0E#8
  | .litlenSymReserved => 0x0F#8
  | .distSymReserved => 0x10#8
  | .distTooFar => 0x11#8
  | .truncated => 0x12#8
  | .filterTypeInvalid => 0x20#8
  | .imageDataShort => 0x21#8
  | .cfgZeroDimension => 0x22#8
  | .cfgBpp => 0x30#8
  | .cfgRowTooLong => 0x31#8
  | .inOverflow => 0x40#8

/-- ERROR.KIND of a cause (spec/60_exceptions.md R501, R502): 1 MalformedStream, 2 UnsupportedFeature,
3 CompressedDataError, 4 HostProtocolError. -/
def Cause.kind : Cause → BitVec 3
  | .filterTypeInvalid => 1#3
  | .imageDataShort => 1#3
  | .cfgZeroDimension => 1#3
  | .cfgBpp => 2#3
  | .cfgRowTooLong => 2#3
  | .inOverflow => 4#3
  | .zlibCm => 3#3
  | .zlibCinfo => 3#3
  | .zlibFcheck => 3#3
  | .zlibFdict => 3#3
  | .btypeReserved => 3#3
  | .storedNlen => 3#3
  | .dynCounts => 3#3
  | .clenCodeBad => 3#3
  | .repeatNoPrev => 3#3
  | .repeatOverrun => 3#3
  | .noEobCode => 3#3
  | .litlenCodeBad => 3#3
  | .distCodeBad => 3#3
  | .invalidCode => 3#3
  | .litlenSymReserved => 3#3
  | .distSymReserved => 3#3
  | .distTooFar => 3#3
  | .truncated => 3#3

/-- `err_bits` at an error (spec/60_exceptions.md R503): the bits of the last input byte that have been consumed, 0 if
no byte has been taken in this session. -/
def Reader.bitsUsed (r : Reader) : BitVec 4 := if r.bytesTaken = 0 then 0#4 else BitVec.ofNat 4 (8 - r.nbits)

/-- `raise K(C)`, the only way into ERROR (spec/60_exceptions.md R503): the record is written, a waiting row is
withdrawn, queued input is discarded, the continuation is dropped. Nothing else changes. -/
def raise (c : Cause) (s : State) : State :=
  { s with
    err := { kind := c.kind, cause := c.code, bits := s.rd.bitsUsed }
    ses := { s.ses with state := .error }
    row := { s.row with rowReady := false, pending := none }
    rd := { s.rd with fifo := [] }
    eng := { s.eng with phase := .pNone, needInput := false } }

/-- What START and ABORT clear (spec/48_host_interface.md R441, R443): the Bit Reader, the counters, the flags, the
window's valid length and the error record. -/
def clearSession (s : State) : State :=
  { s with
    rd :=
      { curByte := 0#8, nbits := 0, fifo := [], eoi := false, inCount := 0#32, bytesTaken := 0, fieldBits := [] }
    trav := { code := 0, first := 0, index := 0, len := 1 }
    eng := { s.eng with phase := .pNone, needInput := false, finalSeen := false, outCount := 0#32 }
    row := { s.row with col := 0, rowsDone := 0#32, rowReady := false, pending := none }
    win := { s.win with wp := 0#15, hist := 0 }
    err := { kind := 0#3, cause := 0#8, bits := 0#4 }
    ses := { s.ses with rowbytes := 0, stride := 0 } }

/-- `ValidateConfig` (spec/48_host_interface.md R442): the first check the latched configuration fails. -/
def configError (c : Config) (width height : Word) (bpp : BitVec 3) : Option Cause :=
  if width = 0#32 ∨ height = 0#32 then some .cfgZeroDimension
  else if ¬ (1 ≤ bpp.toNat ∧ bpp.toNat ≤ 4) then some .cfgBpp
  else if c.maxRowBytes < width.toNat * bpp.toNat then some .cfgRowTooLong
  else none

/-- START (spec/48_host_interface.md R441): the way out of ERROR, DONE and IDLE into a new session. -/
def start (s : State) : State :=
  let t := clearSession s
  let u :=
    { t with
      ses := { t.ses with width := s.regs.cfgWidth, height := s.regs.cfgHeight, bpp := s.regs.cfgBpp } }
  match configError s.cfg s.regs.cfgWidth s.regs.cfgHeight s.regs.cfgBpp with
  | some c => raise c u
  | none =>
    let rowbytes := s.regs.cfgWidth.toNat * s.regs.cfgBpp.toNat
    { u with
      ses := { u.ses with state := .run, rowbytes := rowbytes, stride := rowbytes + 1 }
      eng := { u.eng with phase := .pZhdr } }

/-- ABORT (spec/48_host_interface.md R443): the way out of every state into IDLE. The latched configuration is cleared
with the rest; `bfinal` too, so that ABORT leaves the reset value of R65 (spec/70_reset_and_hazards.md R550). -/
def abort (s : State) : State :=
  let t := clearSession s
  { t with
    ses := { state := .idle, width := 0#32, height := 0#32, bpp := 0#3, rowbytes := 0, stride := 0 }
    eng := { t.eng with bfinal := false } }

/-! ### The window and Emit (spec/20_memory.md R95, R96; spec/43_lz77.md R301) -/

/-- `WinWrite(v)` (spec/20_memory.md R95). -/
def winWrite (v : Byte) (w : Window) : Window :=
  { win := Memory.write w.win w.wp.toNat v, wp := w.wp + 1#15, hist := min (w.hist + 1) 32768 }

/-- `WinRead(d)` (spec/20_memory.md R96): the byte emitted `d` positions before the next one. -/
def winRead (d : Nat) (w : Window) : Byte := Memory.read w.win (w.wp - BitVec.ofNat 15 d).toNat

/-- `Emit(v)` (spec/43_lz77.md R301): into the window, counted, and, within the image, handed to the row stream. -/
def emit (v : Byte) (s : State) : State :=
  { s with
    win := winWrite v s.win
    eng := { s.eng with outCount := s.eng.outCount + 1#32 }
    row := if s.row.rowsDone = s.ses.height then s.row else { s.row with pending := some v } }

/-! ### End of a block, of the stream, of a row -/

/-- END_OF_STREAM (spec/41_zlib_blocks.md R235, spec/40_bit_reader.md R205). -/
def endOfStream (s : State) : State :=
  if s.row.rowsDone < s.ses.height then raise .imageDataShort s
  else
    { s with
      ses := { s.ses with state := .done }
      rd := { s.rd with curByte := 0#8, nbits := 0, fifo := [] }
      eng := { s.eng with phase := .pNone, needInput := false } }

/-- A block has ended: the stream ends if it was the final one, else the next block header is read
(spec/41_zlib_blocks.md R220, R236). -/
def blockEnd (s : State) : State :=
  if s.eng.bfinal then endOfStream s else { s with eng := { s.eng with phase := .pBhdr } }

/-- The row commit of ROW_ACK (spec/45_defilter.md R411). -/
def rowCommit (s : State) : State :=
  { s with
    row :=
      { s.row with
        prior := Memory.copyBelow s.ses.rowbytes s.row.cur s.row.prior
        rowsDone := s.row.rowsDone + 1#32
        rowReady := false } }

end Sys2Proof.Machine
end

