-- ==== Sys2Proof/Machine/Operands.lean ====
section
/-! DEFINITION. Every operand form of the compressed stream: one bit, an n-bit field `F(n)`, the byte alignment, and a
Huffman code `H(T)` of a table built from code lengths (spec/40_bit_reader.md R200 to R203, spec/42_huffman.md R250 to
R270, spec/30_encoding.md R133). Each read either completes or stops: suspended for input, or with the error raised. -/

namespace Sys2Proof.Machine

/-- A read that completed with a value, or that stopped (suspended, or in ERROR). -/
inductive Read (α : Type) where
  | done (a : α) (s : State)
  | stop (s : State)

/-! ### Bit Reader -/

/-- The reader after the first bit of a byte taken from the FIFO (spec/40_bit_reader.md R201). -/
def Reader.takeByte (r : Reader) (b : Byte) (rest : List Byte) : Reader :=
  { r with
    curByte := b >>> 1, nbits := 7, fifo := rest, inCount := r.inCount + 1#32, bytesTaken := r.bytesTaken + 1 }

/-- `ReadBit()` (spec/40_bit_reader.md R201). -/
def readBit (s : State) : Read Bool :=
  if s.rd.nbits = 0 then
    match s.rd.fifo with
    | [] =>
      if s.rd.eoi then .stop (raise .truncated s) else .stop { s with eng := { s.eng with needInput := true } }
    | b :: rest => .done (b.getLsbD 0) { s with rd := s.rd.takeByte b rest }
  else
    .done (s.rd.curByte.getLsbD 0)
      { s with rd := { s.rd with curByte := s.rd.curByte >>> 1, nbits := s.rd.nbits - 1 } }

/-- `k` more bits of the field being read; the bits already read are held across a suspension
(spec/10_state.md R42). -/
def readFieldLoop : Nat → State → Read Nat
  | 0, s => .done (bitsToNat s.rd.fieldBits) { s with rd := { s.rd with fieldBits := [] } }
  | k + 1, s =>
    match readBit s with
    | .stop t => .stop t
    | .done b t => readFieldLoop k { t with rd := { t.rd with fieldBits := t.rd.fieldBits ++ [b] } }

/-- `ReadBits(n)` (spec/40_bit_reader.md R202), begun or resumed. -/
def readField (n : Nat) (s : State) : Read Nat := readFieldLoop (n - s.rd.fieldBits.length) s

/-- `AlignToByte()` (spec/40_bit_reader.md R203). -/
def alignToByte (s : State) : State := { s with rd := { s.rd with curByte := 0#8, nbits := 0 } }

/-- The input bits not yet consumed, in the order in which they will be (spec/20_memory.md R81). -/
def Reader.pendingBits (r : Reader) : List Bool := natBits r.nbits r.curByte.toNat ++ r.fifo.flatMap byteBits

/-- `n` bits read one after another, and the state after them; none if the input ends first. -/
def takeBits : Nat → State → Option (List Bool × State)
  | 0, s => some ([], s)
  | n + 1, s =>
    match readBit s with
    | .stop _ => none
    | .done b t => (takeBits n t).map fun p => (b :: p.1, p.2)

/-! ### Huffman tables -/

/-- The unused prefix space after the lengths whose counts are listed, `none` where it is over-subscribed (`left` of
spec/42_huffman.md R260). -/
def codeSpaceLeft : List Nat → Nat → Option Nat
  | [], left => some left
  | c :: cs, left => if 2 * left < c then none else codeSpaceLeft cs (2 * left - c)

/-- How many symbols have length `l` (`count[l]` of spec/42_huffman.md R260; entry 0 is not used by `Decode`, and 0). -/
def lengthCounts (lens : List Nat) : List Nat := 0 :: (List.range' 1 15).map fun l => lens.count l

/-- The symbols of length `l`, in increasing order, when the list's first symbol is `s`. -/
def symbolsOfLength (l : Nat) : Nat → List Nat → List Nat
  | _, [] => []
  | s, x :: xs => if x = l then s :: symbolsOfLength l (s + 1) xs else symbolsOfLength l (s + 1) xs

/-- The coded symbols in canonical order: by length, then by symbol (spec/42_huffman.md R260). -/
def canonicalSymbols (lens : List Nat) : List Nat := (List.range' 1 15).flatMap fun l => symbolsOfLength l 0 lens

/-- `classify` (spec/42_huffman.md R261). -/
def classify (counts : List Nat) (left : Nat) : TableStatus :=
  if left = 0 then .complete
  else if counts.getD 1 0 = 1 ∧ (counts.drop 2).all (fun c => c == 0) then .single1
  else .incomplete

/-- `Build(lens)` (spec/42_huffman.md R260). R260 gives an OVERSUB table no `symbol`; that it is empty here is a DESIGN
CHOICE (log entry 16). -/
def build (lens : List Nat) : HuffTable :=
  if lens.all (fun l => l == 0) then { count := List.replicate 16 0, symbol := [], status := .empty }
  else
    let counts := lengthCounts lens
    match codeSpaceLeft counts.tail 1 with
    | none => { count := counts, symbol := [], status := .oversub }
    | some left => { count := counts, symbol := canonicalSymbols lens, status := classify counts left }

/-- FIXED_LIT's code lengths (spec/42_huffman.md R251). -/
def fixedLitLengths : List Nat :=
  List.replicate 144 8 ++ List.replicate 112 9 ++ List.replicate 24 7 ++ List.replicate 8 8

/-- FIXED_LIT (spec/42_huffman.md R251). -/
def fixedLit : HuffTable := build fixedLitLengths

/-- FIXED_DIST (spec/42_huffman.md R252). -/
def fixedDist : HuffTable := build (List.replicate 32 5)

/-- `next_code[l]` for the counts of the lengths from 1 on (spec/42_huffman.md R260). -/
def nextCode (counts : List Nat) : Nat → Nat
  | 0 => 0
  | 1 => 0
  | l + 2 => (nextCode counts (l + 1) + counts.getD (l + 1) 0) * 2

/-- The canonical code of symbol `s`, as the bits `Decode` reads (spec/42_huffman.md R260); empty where it has none. -/
def canonicalCode (lens : List Nat) (s : Nat) : List Bool :=
  let l := lens.getD s 0
  msbBits l (nextCode (lengthCounts lens) l + (lens.take s).count l)

/-! ### Tree traversal -/

/-- The registers at the start of `Decode` (spec/42_huffman.md R268). -/
def Traversal.fresh : Traversal := { code := 0, first := 0, index := 0, len := 1 }

/-- What a table entry that does not exist reads as: a number that is a symbol of no alphabet. -/
def noSymbol : Nat := 511

/-- `k` more iterations of `Decode(T)` (spec/42_huffman.md R268); the registers are held across a suspension. -/
def decodeLoop (t : HuffTable) : Nat → State → Read Nat
  | 0, s => .stop (raise .invalidCode s)
  | k + 1, s =>
    match readBit s with
    | .stop u => .stop u
    | .done b u =>
      let code := u.trav.code + b.toNat
      let cnt := t.count.getD u.trav.len 0
      if code < u.trav.first + cnt then
        .done (t.symbol.getD (u.trav.index + (code - u.trav.first)) noSymbol) { u with trav := Traversal.fresh }
      else
        decodeLoop t k
          { u with
            trav :=
              { code := code * 2, first := (u.trav.first + cnt) * 2, index := u.trav.index + cnt,
                len := u.trav.len + 1 } }

/-- `Decode(T)` (spec/42_huffman.md R268), begun or resumed: at most 15 bits (R269). -/
def decodeSymbol (t : HuffTable) (s : State) : Read Nat := decodeLoop t (16 - s.trav.len) s

end Sys2Proof.Machine
end

