-- ==== Sys2Proof/Machine/Flags.lean ====
section
/-! DEFINITION. Every flag and every host-visible register as a function of the state: STATUS, ERROR, the register map
and the ROW window (spec/10_state.md R48 to R63). -/

namespace Sys2Proof.Machine

/-- STATUS.STATE (spec/10_state.md R31, R50). -/
def SessionState.code : SessionState → Nat
  | .idle => 0
  | .run => 1
  | .done => 2
  | .error => 3

/-- STATUS.NEED_INPUT (spec/10_state.md R50). -/
def State.needInputFlag (s : State) : Bool := decide (s.ses.state = .run) && s.eng.needInput

/-- STATUS.IN_FULL (spec/10_state.md R50). -/
def State.inFull (s : State) : Bool := decide (s.rd.fifo.length = s.cfg.inFifoDepth)

/-- STATUS.ROWS_COMPLETE (spec/10_state.md R50). -/
def State.rowsComplete (s : State) : Bool :=
  (decide (s.ses.state = .run) || decide (s.ses.state = .done)) && decide (s.row.rowsDone = s.ses.height)

/-- STATUS (spec/10_state.md R50). -/
def State.status (s : State) : Word :=
  BitVec.ofNat 32
    (s.ses.state.code + 4 * s.needInputFlag.toNat + 8 * s.row.rowReady.toNat + 16 * s.rd.eoi.toNat
      + 32 * s.inFull.toNat + 64 * s.rowsComplete.toNat + 128 * s.eng.finalSeen.toNat
      + 65536 * s.rd.fifo.length)

/-- ERROR (spec/10_state.md R51). -/
def State.errorWord (s : State) : Word :=
  BitVec.ofNat 32 (s.err.kind.toNat + 256 * s.err.cause.toNat + 65536 * s.err.bits.toNat)

/-- The value a 32-bit read of a register returns (spec/10_state.md R48 to R61, spec/20_memory.md R85). -/
def State.register (s : State) (offset : Nat) : Word :=
  if offset = 0x004 then s.status
  else if offset = 0x008 then s.errorWord
  else if offset = 0x00C then s.regs.cfgWidth
  else if offset = 0x010 then s.regs.cfgHeight
  else if offset = 0x014 then s.regs.cfgBpp.zeroExtend 32
  else if offset = 0x01C then s.row.rowsDone
  else if offset = 0x020 then s.rd.inCount
  else if offset = 0x024 then s.eng.outCount
  else if offset = 0x028 then BitVec.ofNat 32 s.ses.rowbytes
  else if offset = 0x02C then BitVec.ofNat 32 s.cfg.inFifoDepth
  else if offset = 0x030 then BitVec.ofNat 32 s.cfg.maxRowBytes
  else 0#32

/-- The byte at offset 0x1000 + i of the ROW window while a row is ready (spec/10_state.md R62). -/
def State.rowByte (s : State) (i : Nat) : Byte := if i < s.ses.rowbytes then Memory.read s.row.cur i else 0#8

/-- `n` window bytes from `i` on, assembled little-endian (spec/20_memory.md R82). -/
def State.rowValue (s : State) : Nat → Nat → Nat
  | 0, _ => 0
  | n + 1, i => (s.rowByte i).toNat + 256 * s.rowValue n (i + 1)

/-- The input bit position `8 × (bytes taken) − nbits`, the number of input bits consumed in this session, unbounded
(spec/10_state.md R33, spec/40_bit_reader.md R204). -/
def Reader.bitPosition (r : Reader) : Nat := 8 * r.bytesTaken - r.nbits

/-- `li` (spec/10_state.md R39): the index of the next entry of `lens` to fill. -/
def DynHeader.li (d : DynHeader) : Nat := d.lens.length

end Sys2Proof.Machine
end

