-- ==== Sys2Proof/Machine/Defilter.lean ====
section
/-! DEFINITION. The row stream: filter-type bytes and the five reversals (spec/45_defilter.md R400 to R410). A row
instruction consumes the byte of the row stream that waits in `row.pending`: at column 0 it selects the row's filter
(R402), at a later column it reconstructs one byte (R405 to R409). -/

namespace Sys2Proof.Machine

/-- Left neighbour `a` of position x (spec/45_defilter.md R403). -/
def neighbourA (s : State) (x : Nat) : Byte :=
  if s.ses.bpp.toNat ≤ x then Memory.read s.row.cur (x - s.ses.bpp.toNat) else 0#8

/-- Upper neighbour `b` of position x (spec/45_defilter.md R403). -/
def neighbourB (s : State) (x : Nat) : Byte :=
  if s.row.rowsDone = 0#32 then 0#8 else Memory.read s.row.prior x

/-- Upper-left neighbour `c` of position x (spec/45_defilter.md R403). -/
def neighbourC (s : State) (x : Nat) : Byte :=
  if s.ses.bpp.toNat ≤ x ∧ s.row.rowsDone ≠ 0#32 then Memory.read s.row.prior (x - s.ses.bpp.toNat) else 0#8

/-- The Average prediction (spec/45_defilter.md R404, R408): the sum is not truncated to 8 bits. -/
def average (a b : Byte) : Byte := BitVec.ofNat 8 ((a.toNat + b.toNat) / 2)

/-- The Paeth predictor (spec/45_defilter.md R409): exact integers, ties to left, then up, then upper-left. -/
def paeth (a b c : Byte) : Byte :=
  let e : Int := (a.toNat : Int) + b.toNat - c.toNat
  let pa := (e - a.toNat).natAbs
  let pb := (e - b.toNat).natAbs
  let pc := (e - c.toNat).natAbs
  if pa ≤ pb ∧ pa ≤ pc then a else if pb ≤ pc then b else c

/-- `cur[x] <- (v + p) mod 256; col <- col + 1`, and the completion of the row at `stride` (spec/45_defilter.md R401,
R404, R410). -/
def putRowByte (v p : Byte) (s : State) : State :=
  { s with
    row :=
      { s.row with
        cur := Memory.write s.row.cur (s.row.col - 1) (v + p)
        col := if s.row.col + 1 = s.ses.stride then 0 else s.row.col + 1
        rowReady := decide (s.row.col + 1 = s.ses.stride)
        pending := none } }

/-- The filter-type byte of a row (spec/45_defilter.md R402): no row byte is produced. -/
def selectFilter (t : FilterType) (s : State) : State :=
  { s with row := { s.row with ftype := t, col := 1, pending := none } }

/-- A row instruction of filter type `t` with prediction `p` of the neighbours (a, b, c) (spec/45_defilter.md R401). -/
def filterByte (t : FilterType) (p : Byte → Byte → Byte → Byte) (s : State) : State :=
  match s.row.pending with
  | none => s
  | some v =>
    if s.row.col = 0 then selectFilter t s
    else
      let x := s.row.col - 1
      putRowByte v (p (neighbourA s x) (neighbourB s x) (neighbourC s x)) s

/-- FILT_NONE (spec/45_defilter.md R405). -/
def execFiltNone (s : State) : Result := .next (filterByte .none (fun _ _ _ => 0#8) s)

/-- FILT_SUB (spec/45_defilter.md R406). -/
def execFiltSub (s : State) : Result := .next (filterByte .sub (fun a _ _ => a) s)

/-- FILT_UP (spec/45_defilter.md R407). -/
def execFiltUp (s : State) : Result := .next (filterByte .up (fun _ b _ => b) s)

/-- FILT_AVG (spec/45_defilter.md R408). -/
def execFiltAvg (s : State) : Result := .next (filterByte .avg (fun a b _ => average a b) s)

/-- FILT_PAETH (spec/45_defilter.md R409). -/
def execFiltPaeth (s : State) : Result := .next (filterByte .paeth (fun a b c => paeth a b c) s)

/-- FILT_INVALID (spec/45_defilter.md R402): the window and `out_count` already include the byte. -/
def execFiltInvalid (_v : Byte) (s : State) : Result := .next (raise .filterTypeInvalid s)

end Sys2Proof.Machine
end

