-- ==== Sys2Proof/Machine/Dynamic.lean ====
section
/-! DEFINITION. Dynamic block headers: the counts, the code-length code, the code lengths and their repeats, and the
building of the block's tables (spec/42_huffman.md R253 to R267). -/

namespace Sys2Proof.Machine

/-- The order in which code-length code lengths are sent (ORDER, spec/42_huffman.md R253). -/
def clenOrder : List Nat := [16, 17, 18, 0, 8, 7, 9, 6, 10, 5, 11, 4, 12, 3, 13, 2, 14, 1, 15]

/-- The counts of a dynamic header (spec/30_encoding.md R131, R133). -/
def setCounts (hlit hdist : BitVec 5) (hclen : BitVec 4) (s : State) : State :=
  { s with
    dyn := { s.dyn with hlit := hlit.toNat + 257, hdist := hdist.toNat + 1, hclen := hclen.toNat + 4 } }

/-- Whether a code-length code is accepted (spec/42_huffman.md R262). -/
def cltAccepted (t : HuffTable) : Bool := decide (t.status = .complete)

/-- Whether a literal/length code is accepted (spec/42_huffman.md R264). -/
def litAccepted (t : HuffTable) : Bool := decide (t.status = .complete) || decide (t.status = .single1)

/-- Whether a distance code is accepted (spec/42_huffman.md R265). -/
def distAccepted (t : HuffTable) : Bool :=
  decide (t.status = .complete) || decide (t.status = .single1) || decide (t.status = .empty)

/-- The literal/length code lengths of a complete code-length sequence, 288 of them (spec/42_huffman.md R253). -/
def litLengths (d : DynHeader) : List Nat :=
  (d.lens.take d.hlit).map BitVec.toNat ++ List.replicate (288 - d.hlit) 0

/-- The distance code lengths of a complete code-length sequence, 32 of them (spec/42_huffman.md R253). -/
def distLengths (d : DynHeader) : List Nat :=
  ((d.lens.drop d.hlit).take d.hdist).map BitVec.toNat ++ List.replicate (32 - d.hdist) 0

/-- The end of DYNHEADER: the end-of-block code, then the two tables, in this order (spec/42_huffman.md R263 to R265). -/
def buildBlockTables (s : State) : State :=
  if s.dyn.lens.getD 256 0#4 = 0#4 then raise .noEobCode s
  else
    let lit := build (litLengths s.dyn)
    let t := { s with tab := { s.tab with lit := lit } }
    if litAccepted lit then
      let dist := build (distLengths s.dyn)
      let u := { t with tab := { t.tab with dist := dist } }
      if distAccepted dist then { u with eng := { u.eng with phase := .pSym } } else raise .distCodeBad u
    else raise .litlenCodeBad t

/-- `n` code lengths `v` are appended; the sequence is complete when it has `hlit + hdist` of them
(spec/42_huffman.md R253, R266). -/
def appendLengths (n : Nat) (v : BitVec 4) (s : State) : State :=
  let t :=
    { s with
      dyn := { s.dyn with lens := s.dyn.lens ++ List.replicate n v }
      eng := { s.eng with phase := .pDynLens } }
  if t.dyn.lens.length < t.dyn.hlit + t.dyn.hdist then t else buildBlockTables t

/-- A repeat of `n` code lengths `v`, refused whole if it runs past the end (spec/42_huffman.md R266). -/
def repeatLengths (n : Nat) (v : BitVec 4) (s : State) : State :=
  if s.dyn.hlit + s.dyn.hdist < s.dyn.lens.length + n then raise .repeatOverrun s else appendLengths n v s

/-- A repeat symbol: its extra bits are read, then `base + extra` code lengths `v` are appended
(spec/42_huffman.md R257 to R259). -/
def repeatSymbol (sym : BitVec 9) (base extra : Nat) (v : BitVec 4) (s : State) : State :=
  match readField extra { s with eng := { s.eng with phase := .pDynExtra, sym := sym } } with
  | .stop t => t
  | .done e t => repeatLengths (base + e) v t

/-- DYN_HDR (spec/42_huffman.md R253): the counts are stored, `cl` is cleared, and the `hclen` 3-bit lengths follow. -/
def execDynHdr (hlit hdist : BitVec 5) (hclen : BitVec 4) (s : State) : Result :=
  let t := setCounts hlit hdist hclen s
  .next
    { t with
      dyn := { t.dyn with cl := List.replicate 19 0#3, clIdx := 0 }
      eng := { t.eng with phase := .pDynClen } }

/-- DYN_HDR_BAD_COUNTS (spec/42_huffman.md R254). -/
def execDynHdrBadCounts (hlit hdist : BitVec 5) (hclen : BitVec 4) (s : State) : Result :=
  .next (raise .dynCounts (setCounts hlit hdist hclen s))

/-- CLL (spec/42_huffman.md R255): `cl[ORDER[k]]` is the field; after the last one the code-length code is built and
must be COMPLETE (R262). -/
def execCll (length : BitVec 3) (s : State) : Result :=
  let t :=
    { s with
      dyn :=
        { s.dyn with
          cl := s.dyn.cl.set (clenOrder.getD s.dyn.clIdx 0) length, clIdx := s.dyn.clIdx + 1 } }
  if t.dyn.clIdx < t.dyn.hclen then .next t
  else
    let clt := build (t.dyn.cl.map BitVec.toNat)
    let u := { t with tab := { t.tab with clt := clt } }
    if cltAccepted clt then
      .next { u with dyn := { u.dyn with lens := [] }, eng := { u.eng with phase := .pDynLens } }
    else .next (raise .clenCodeBad u)

/-- CL_LEN (spec/42_huffman.md R256). -/
def execClLen (length : BitVec 4) (s : State) : Result := .next (appendLengths 1 length s)

/-- CL_REPEAT_PREV (spec/42_huffman.md R257): the check for a previous length comes before the extra bits. -/
def execClRepeatPrev (s : State) : Result :=
  match s.dyn.lens.getLast? with
  | none => .next (raise .repeatNoPrev s)
  | some v => .next (repeatSymbol 16#9 3 2 v s)

/-- CL_REPEAT_ZERO3 (spec/42_huffman.md R258). -/
def execClRepeatZero3 (s : State) : Result := .next (repeatSymbol 17#9 3 3 0#4 s)

/-- CL_REPEAT_ZERO11 (spec/42_huffman.md R259). -/
def execClRepeatZero11 (s : State) : Result := .next (repeatSymbol 18#9 11 7 0#4 s)

end Sys2Proof.Machine
end

