-- ==== Sys2Proof/Machine/HostAccesses.lean ====
section
/-! DEFINITION. The host operations (spec/48_host_interface.md R440 to R454), each without the RunEngine that follows
it in the same atomic step: Machine/Engine.lean adds it (R455). -/

namespace Sys2Proof.Machine

/-- The host's bus gave this response (spec/20_memory.md R83). -/
def respond (r : HostResponse) (s : State) : State := { s with host := { s.host with resp := r } }

/-- An access the block does not decode is the platform's (spec/20_memory.md R85): a bus error where the platform gives
one (spec/48_host_interface.md R454), else refused (spec/93_implementation_defined.md U4). -/
def undecoded (s : State) : Result :=
  if s.cfg.undecodedBusError then .next (respond .busError s) else .refused .platformAccess

/-- CTRL_ABORT (spec/48_host_interface.md R443). -/
def execCtrlAbort (s : State) : Result := .next (respond .written (abort s))

/-- CTRL_START (spec/48_host_interface.md R441). -/
def execCtrlStart (s : State) : Result := .next (respond .written (start s))

/-- CTRL_ROW_ACK (spec/48_host_interface.md R445): ignored unless a row is ready in RUN. -/
def execCtrlRowAck (s : State) : Result :=
  if s.ses.state = .run ∧ s.row.rowReady then .next (respond .written (rowCommit s)) else .next (respond .written s)

/-- CTRL_EOI (spec/48_host_interface.md R446): ignored outside RUN. -/
def execCtrlEoi (s : State) : Result :=
  if s.ses.state = .run then .next (respond .written { s with rd := { s.rd with eoi := true } })
  else .next (respond .written s)

/-- IN_DATA_WRITE (spec/48_host_interface.md R447 to R449): discarded outside RUN, IN_OVERFLOW when the FIFO is full. -/
def execInDataWrite (data : Word) (s : State) : Result :=
  if s.ses.state = .run then
    if s.rd.fifo.length = s.cfg.inFifoDepth then .next (respond .written (raise .inOverflow s))
    else .next (respond .written { s with rd := { s.rd with fifo := s.rd.fifo ++ [data.setWidth 8] } })
  else .next (respond .written s)

/-- CFG_WIDTH_WRITE (spec/48_host_interface.md R450, spec/10_state.md R52). -/
def execCfgWidthWrite (data : Word) (s : State) : Result :=
  .next (respond .written { s with regs := { s.regs with cfgWidth := data } })

/-- CFG_HEIGHT_WRITE (spec/48_host_interface.md R450, spec/10_state.md R53). -/
def execCfgHeightWrite (data : Word) (s : State) : Result :=
  .next (respond .written { s with regs := { s.regs with cfgHeight := data } })

/-- CFG_BPP_WRITE (spec/48_host_interface.md R450, spec/10_state.md R54): bits 2:0 are stored. -/
def execCfgBppWrite (data : Word) (s : State) : Result :=
  .next (respond .written { s with regs := { s.regs with cfgBpp := data.setWidth 3 } })

/-- REG_READ (spec/48_host_interface.md R451). -/
def execRegRead (offset : Nat) (s : State) : Result := .next (respond (.value (s.register offset)) s)

/-- ROW_READ (spec/48_host_interface.md R452). While no row is ready the value is a FREE VALUE, a fresh draw per read
(spec/10_state.md R62, log entry 2). -/
def execRowRead (w : AccessWidth) (offset : Nat) (s : State) : Result :=
  if s.row.rowReady then
    .next (respond (.value (BitVec.ofNat 32 (s.rowValue w.bytes (offset - 0x1000)))) s)
  else
    let t := respond (.value (BitVec.ofNat 32 ((Config.rowWindowDraw s.host.draws).toNat % 256 ^ w.bytes))) s
    .next { t with host := { t.host with draws := s.host.draws + 1 } }

/-- IGNORED_WRITE (spec/48_host_interface.md R453). -/
def execIgnoredWrite (_w : AccessWidth) (_offset : Nat) (_data : Word) (s : State) : Result :=
  .next (respond .written s)

/-- BUS_ERROR (spec/48_host_interface.md R454): the host's access faults, recorded as its response; no state of the
block changes (log entry 5). -/
def execBusError (a : HostAccess) (s : State) : Result :=
  if a.misaccess then .next (respond .busError s) else undecoded s

end Sys2Proof.Machine
end

