-- ==== Sys2Proof/Machine/Lz77.lean ====
section
/-! DEFINITION. The body of a Huffman block: literals, lengths, distances and the back-reference copy
(spec/43_lz77.md R300 to R371). -/

namespace Sys2Proof.Machine

/-- A length symbol (spec/43_lz77.md R300): its extra bits are read, `copy_len <- base + extra`, and a distance
symbol follows. -/
def lengthSymbol (sym : BitVec 9) (base extra : Nat) (s : State) : State :=
  match readField extra { s with eng := { s.eng with phase := .pLenExtra, sym := sym } } with
  | .stop t => t
  | .done e t => { t with eng := { t.eng with copyLen := BitVec.ofNat 9 (base + e), phase := .pDist } }

/-- The distance check (spec/43_lz77.md R368), then the copy. -/
def checkDistance (s : State) : State :=
  if s.win.hist < s.eng.copyDist.toNat then raise .distTooFar s
  else { s with eng := { s.eng with phase := .pCopy } }

/-- A distance symbol (spec/43_lz77.md R300, R335): its extra bits are read, `copy_dist <- base + extra`, then the
check and the copy. -/
def distanceSymbol (sym : BitVec 9) (base extra : Nat) (s : State) : State :=
  match readField extra { s with eng := { s.eng with phase := .pDistExtra, sym := sym } } with
  | .stop t => t
  | .done e t => checkDistance { t with eng := { t.eng with copyDist := BitVec.ofNat 16 (base + e) } }

/-- One iteration of COPY (spec/43_lz77.md R369, R370): the byte `copy_dist` back is emitted; after the last one the
next symbol is decoded. -/
def copyByte (s : State) : State :=
  if s.eng.copyLen = 0#9 then { s with eng := { s.eng with phase := .pSym } }
  else
    emit (winRead s.eng.copyDist.toNat s.win)
      { s with eng := { s.eng with copyLen := s.eng.copyLen - 1#9 } }

/-- LIT (spec/43_lz77.md R302). -/
def execLit (v : Byte) (s : State) : Result := .next (emit v { s with eng := { s.eng with phase := .pSym } })

/-- EOB (spec/43_lz77.md R303). -/
def execEob (s : State) : Result := .next (blockEnd s)

/-- LEN_257 (spec/43_lz77.md R304). -/
def execLen257 (s : State) : Result := .next (lengthSymbol 257#9 3 0 s)

/-- LEN_258 (spec/43_lz77.md R305). -/
def execLen258 (s : State) : Result := .next (lengthSymbol 258#9 4 0 s)

/-- LEN_259 (spec/43_lz77.md R306). -/
def execLen259 (s : State) : Result := .next (lengthSymbol 259#9 5 0 s)

/-- LEN_260 (spec/43_lz77.md R307). -/
def execLen260 (s : State) : Result := .next (lengthSymbol 260#9 6 0 s)

/-- LEN_261 (spec/43_lz77.md R308). -/
def execLen261 (s : State) : Result := .next (lengthSymbol 261#9 7 0 s)

/-- LEN_262 (spec/43_lz77.md R309). -/
def execLen262 (s : State) : Result := .next (lengthSymbol 262#9 8 0 s)

/-- LEN_263 (spec/43_lz77.md R310). -/
def execLen263 (s : State) : Result := .next (lengthSymbol 263#9 9 0 s)

/-- LEN_264 (spec/43_lz77.md R311). -/
def execLen264 (s : State) : Result := .next (lengthSymbol 264#9 10 0 s)

/-- LEN_265 (spec/43_lz77.md R312). -/
def execLen265 (s : State) : Result := .next (lengthSymbol 265#9 11 1 s)

/-- LEN_266 (spec/43_lz77.md R313). -/
def execLen266 (s : State) : Result := .next (lengthSymbol 266#9 13 1 s)

/-- LEN_267 (spec/43_lz77.md R314). -/
def execLen267 (s : State) : Result := .next (lengthSymbol 267#9 15 1 s)

/-- LEN_268 (spec/43_lz77.md R315). -/
def execLen268 (s : State) : Result := .next (lengthSymbol 268#9 17 1 s)

/-- LEN_269 (spec/43_lz77.md R316). -/
def execLen269 (s : State) : Result := .next (lengthSymbol 269#9 19 2 s)

/-- LEN_270 (spec/43_lz77.md R317). -/
def execLen270 (s : State) : Result := .next (lengthSymbol 270#9 23 2 s)

/-- LEN_271 (spec/43_lz77.md R318). -/
def execLen271 (s : State) : Result := .next (lengthSymbol 271#9 27 2 s)

/-- LEN_272 (spec/43_lz77.md R319). -/
def execLen272 (s : State) : Result := .next (lengthSymbol 272#9 31 2 s)

/-- LEN_273 (spec/43_lz77.md R320). -/
def execLen273 (s : State) : Result := .next (lengthSymbol 273#9 35 3 s)

/-- LEN_274 (spec/43_lz77.md R321). -/
def execLen274 (s : State) : Result := .next (lengthSymbol 274#9 43 3 s)

/-- LEN_275 (spec/43_lz77.md R322). -/
def execLen275 (s : State) : Result := .next (lengthSymbol 275#9 51 3 s)

/-- LEN_276 (spec/43_lz77.md R323). -/
def execLen276 (s : State) : Result := .next (lengthSymbol 276#9 59 3 s)

/-- LEN_277 (spec/43_lz77.md R324). -/
def execLen277 (s : State) : Result := .next (lengthSymbol 277#9 67 4 s)

/-- LEN_278 (spec/43_lz77.md R325). -/
def execLen278 (s : State) : Result := .next (lengthSymbol 278#9 83 4 s)

/-- LEN_279 (spec/43_lz77.md R326). -/
def execLen279 (s : State) : Result := .next (lengthSymbol 279#9 99 4 s)

/-- LEN_280 (spec/43_lz77.md R327). -/
def execLen280 (s : State) : Result := .next (lengthSymbol 280#9 115 4 s)

/-- LEN_281 (spec/43_lz77.md R328). -/
def execLen281 (s : State) : Result := .next (lengthSymbol 281#9 131 5 s)

/-- LEN_282 (spec/43_lz77.md R329). -/
def execLen282 (s : State) : Result := .next (lengthSymbol 282#9 163 5 s)

/-- LEN_283 (spec/43_lz77.md R330). -/
def execLen283 (s : State) : Result := .next (lengthSymbol 283#9 195 5 s)

/-- LEN_284 (spec/43_lz77.md R331). -/
def execLen284 (s : State) : Result := .next (lengthSymbol 284#9 227 5 s)

/-- LEN_285 (spec/43_lz77.md R332). -/
def execLen285 (s : State) : Result := .next (lengthSymbol 285#9 258 0 s)

/-- LITLEN_RSV_286 (spec/43_lz77.md R333). -/
def execLitlenRsv286 (s : State) : Result := .next (raise .litlenSymReserved s)

/-- LITLEN_RSV_287 (spec/43_lz77.md R334). -/
def execLitlenRsv287 (s : State) : Result := .next (raise .litlenSymReserved s)

/-- DIST_0 (spec/43_lz77.md R336). -/
def execDist0 (s : State) : Result := .next (distanceSymbol 0#9 1 0 s)

/-- DIST_1 (spec/43_lz77.md R337). -/
def execDist1 (s : State) : Result := .next (distanceSymbol 1#9 2 0 s)

/-- DIST_2 (spec/43_lz77.md R338). -/
def execDist2 (s : State) : Result := .next (distanceSymbol 2#9 3 0 s)

/-- DIST_3 (spec/43_lz77.md R339). -/
def execDist3 (s : State) : Result := .next (distanceSymbol 3#9 4 0 s)

/-- DIST_4 (spec/43_lz77.md R340). -/
def execDist4 (s : State) : Result := .next (distanceSymbol 4#9 5 1 s)

/-- DIST_5 (spec/43_lz77.md R341). -/
def execDist5 (s : State) : Result := .next (distanceSymbol 5#9 7 1 s)

/-- DIST_6 (spec/43_lz77.md R342). -/
def execDist6 (s : State) : Result := .next (distanceSymbol 6#9 9 2 s)

/-- DIST_7 (spec/43_lz77.md R343). -/
def execDist7 (s : State) : Result := .next (distanceSymbol 7#9 13 2 s)

/-- DIST_8 (spec/43_lz77.md R344). -/
def execDist8 (s : State) : Result := .next (distanceSymbol 8#9 17 3 s)

/-- DIST_9 (spec/43_lz77.md R345). -/
def execDist9 (s : State) : Result := .next (distanceSymbol 9#9 25 3 s)

/-- DIST_10 (spec/43_lz77.md R346). -/
def execDist10 (s : State) : Result := .next (distanceSymbol 10#9 33 4 s)

/-- DIST_11 (spec/43_lz77.md R347). -/
def execDist11 (s : State) : Result := .next (distanceSymbol 11#9 49 4 s)

/-- DIST_12 (spec/43_lz77.md R348). -/
def execDist12 (s : State) : Result := .next (distanceSymbol 12#9 65 5 s)

/-- DIST_13 (spec/43_lz77.md R349). -/
def execDist13 (s : State) : Result := .next (distanceSymbol 13#9 97 5 s)

/-- DIST_14 (spec/43_lz77.md R350). -/
def execDist14 (s : State) : Result := .next (distanceSymbol 14#9 129 6 s)

/-- DIST_15 (spec/43_lz77.md R351). -/
def execDist15 (s : State) : Result := .next (distanceSymbol 15#9 193 6 s)

/-- DIST_16 (spec/43_lz77.md R352). -/
def execDist16 (s : State) : Result := .next (distanceSymbol 16#9 257 7 s)

/-- DIST_17 (spec/43_lz77.md R353). -/
def execDist17 (s : State) : Result := .next (distanceSymbol 17#9 385 7 s)

/-- DIST_18 (spec/43_lz77.md R354). -/
def execDist18 (s : State) : Result := .next (distanceSymbol 18#9 513 8 s)

/-- DIST_19 (spec/43_lz77.md R355). -/
def execDist19 (s : State) : Result := .next (distanceSymbol 19#9 769 8 s)

/-- DIST_20 (spec/43_lz77.md R356). -/
def execDist20 (s : State) : Result := .next (distanceSymbol 20#9 1025 9 s)

/-- DIST_21 (spec/43_lz77.md R357). -/
def execDist21 (s : State) : Result := .next (distanceSymbol 21#9 1537 9 s)

/-- DIST_22 (spec/43_lz77.md R358). -/
def execDist22 (s : State) : Result := .next (distanceSymbol 22#9 2049 10 s)

/-- DIST_23 (spec/43_lz77.md R359). -/
def execDist23 (s : State) : Result := .next (distanceSymbol 23#9 3073 10 s)

/-- DIST_24 (spec/43_lz77.md R360). -/
def execDist24 (s : State) : Result := .next (distanceSymbol 24#9 4097 11 s)

/-- DIST_25 (spec/43_lz77.md R361). -/
def execDist25 (s : State) : Result := .next (distanceSymbol 25#9 6145 11 s)

/-- DIST_26 (spec/43_lz77.md R362). -/
def execDist26 (s : State) : Result := .next (distanceSymbol 26#9 8193 12 s)

/-- DIST_27 (spec/43_lz77.md R363). -/
def execDist27 (s : State) : Result := .next (distanceSymbol 27#9 12289 12 s)

/-- DIST_28 (spec/43_lz77.md R364). -/
def execDist28 (s : State) : Result := .next (distanceSymbol 28#9 16385 13 s)

/-- DIST_29 (spec/43_lz77.md R365). -/
def execDist29 (s : State) : Result := .next (distanceSymbol 29#9 24577 13 s)

/-- DIST_RSV_30 (spec/43_lz77.md R366). -/
def execDistRsv30 (s : State) : Result := .next (raise .distSymReserved s)

/-- DIST_RSV_31 (spec/43_lz77.md R367). -/
def execDistRsv31 (s : State) : Result := .next (raise .distSymReserved s)

end Sys2Proof.Machine
end

