-- ==== Sys2Proof/Machine/ZlibBlocks.lean ====
section
/-! DEFINITION. The zlib header, the block headers and stored blocks (spec/41_zlib_blocks.md R220 to R236). Each
meaning runs on the state after its element's bits have been read. -/

namespace Sys2Proof.Machine

/-- An accepted zlib header: the first block header is read next (spec/41_zlib_blocks.md R220, R221). -/
def afterZlibHeader (s : State) : State := { s with eng := { s.eng with phase := .pBhdr } }

/-- The registers every block header writes (spec/41_zlib_blocks.md R220, R227), and the phase it goes to. -/
def blockHeader (bfinal : Bool) (btype : BitVec 2) (next : Phase) (s : State) : State :=
  { s with
    eng :=
      { s.eng with
        bfinal := bfinal, btype := btype, finalSeen := s.eng.finalSeen || bfinal, phase := next } }

/-- ZLIB_HDR_BAD_CM (spec/41_zlib_blocks.md R222). -/
def execZlibHdrBadCm (_cmf _flg : Byte) (s : State) : Result := .next (raise .zlibCm s)

/-- ZLIB_HDR_BAD_CINFO (spec/41_zlib_blocks.md R223). -/
def execZlibHdrBadCinfo (_cmf _flg : Byte) (s : State) : Result := .next (raise .zlibCinfo s)

/-- ZLIB_HDR_BAD_FCHECK (spec/41_zlib_blocks.md R224). -/
def execZlibHdrBadFcheck (_cmf _flg : Byte) (s : State) : Result := .next (raise .zlibFcheck s)

/-- ZLIB_HDR_FDICT (spec/41_zlib_blocks.md R225). -/
def execZlibHdrFdict (_cmf _flg : Byte) (s : State) : Result := .next (raise .zlibFdict s)

/-- ZLIB_HDR (spec/41_zlib_blocks.md R221): FLEVEL and CINFO have no effect (spec/30_encoding.md R138). -/
def execZlibHdr (_cmf _flg : Byte) (s : State) : Result := .next (afterZlibHeader s)

/-- BLK_STORED (spec/41_zlib_blocks.md R228): the alignment, then LEN and NLEN are read. -/
def execBlkStored (bfinal : Bool) (s : State) : Result :=
  .next (alignToByte (blockHeader bfinal 0#2 .pStoredHdr s))

/-- BLK_FIXED (spec/41_zlib_blocks.md R232): the block's tables are the fixed ones. -/
def execBlkFixed (bfinal : Bool) (s : State) : Result :=
  let t := blockHeader bfinal 1#2 .pSym s
  .next { t with tab := { t.tab with lit := fixedLit, dist := fixedDist } }

/-- BLK_DYNAMIC (spec/41_zlib_blocks.md R233): the dynamic header's counts are read next. -/
def execBlkDynamic (bfinal : Bool) (s : State) : Result := .next (blockHeader bfinal 2#2 .pDynCounts s)

/-- BLK_RESERVED (spec/41_zlib_blocks.md R234): FINAL_SEEN is already set if BFINAL = 1. -/
def execBlkReserved (bfinal : Bool) (s : State) : Result :=
  .next (raise .btypeReserved (blockHeader bfinal 3#2 .pBhdr s))

/-- STORED_HDR (spec/41_zlib_blocks.md R229): `len_rem <- LEN`. -/
def execStoredHdr (len _nlen : BitVec 16) (s : State) : Result :=
  .next { s with eng := { s.eng with lenRem := len, phase := .pStoredCopy } }

/-- STORED_HDR_BAD_NLEN (spec/41_zlib_blocks.md R230). -/
def execStoredHdrBadNlen (_len _nlen : BitVec 16) (s : State) : Result := .next (raise .storedNlen s)

/-- STORED_BYTE (spec/41_zlib_blocks.md R231): `len_rem <- len_rem − 1; Emit(v)`. -/
def execStoredByte (v : Byte) (s : State) : Result :=
  .next (emit v { s with eng := { s.eng with lenRem := s.eng.lenRem - 1#16 } })

end Sys2Proof.Machine
end

