-- ==== Sys2Proof/Machine/Engine.lean ====
section
/-! DEFINITION. How an instruction is fetched and what surrounds it in a step: the engine's continuation
(spec/00_scope.md R14), RunEngine (spec/48_host_interface.md R455), the atomic step of a host access (spec/20_memory.md
R86, R90), and the placing of one instruction for the next step. Everything is written over a function `ex`, the
meaning of an instruction, which Machine/Step.lean supplies. -/

namespace Sys2Proof.Machine

/-! ### Quiescence (spec/48_host_interface.md R455) -/

/-- The engine waits for input it does not have (`SUSPEND(NEED_INPUT)`, spec/40_bit_reader.md R201). -/
def needsByte (s : State) : Bool := s.eng.needInput && s.rd.fifo.isEmpty && !s.rd.eoi

/-- The engine has nothing to do: not in RUN, a row waits, input is awaited, or there is no continuation. -/
def engineIdle (s : State) : Bool :=
  decide (s.ses.state ≠ .run) || s.row.rowReady || needsByte s
    || (decide (s.eng.phase = .pNone) && decide (s.row.pending = none))

/-! ### Fetching a stream element -/

/-- What the continuation does next: run the instruction an element stands for, on the state after its bits; go on
without an element (a state that already shows it); or a number without a row. -/
inductive Fetch where
  | instr (i : Instr) (s : State)
  | internal (s : State)
  | noRow (f : Format) (v : Nat)

/-- The element `v` of format `f` has been read. -/
def fetchDecoded (f : Format) (v : Nat) (s : State) : Fetch :=
  match decodeField f v with
  | .ok i => .instr i s
  | .error _ => .noRow f v

/-- An element whose value is what a read returns; a read that stops is the whole micro-step. -/
def fetchRead (f : Format) (r : Read Nat) : Fetch :=
  match r with
  | .stop t => .internal t
  | .done v t => fetchDecoded f v t

/-- `CMF × 256 + FLG` from the 16 bits in stream order, CMF first (spec/30_encoding.md R122). -/
def zlibValue (raw : Nat) : Nat := raw % 256 * 256 + raw / 256

/-- The zlib header's two bytes (spec/41_zlib_blocks.md R221). -/
def fetchZlib (s : State) : Fetch :=
  match readField 16 s with
  | .stop t => .internal t
  | .done raw t => fetchDecoded .zlibHeader (zlibValue raw) t

/-- The row instruction of filter type `t` (spec/30_encoding.md R135). -/
def filterInstr (t : FilterType) : Instr :=
  match t with
  | .none => .filtNone
  | .sub => .filtSub
  | .up => .filtUp
  | .avg => .filtAvg
  | .paeth => .filtPaeth

/-- The byte `v` of the row stream: the filter-type byte at column 0, else a byte of the row's filter
(spec/45_defilter.md R400, R401). -/
def fetchRow (v : Byte) (s : State) : Fetch :=
  if s.row.col = 0 then fetchDecoded .rowFilter v.toNat s else .instr (filterInstr s.row.ftype) s

/-- What the continuation does at a phase (spec/41_zlib_blocks.md R220, R228; spec/42_huffman.md R253;
spec/43_lz77.md R300). -/
def fetchPhase (s : State) : Fetch :=
  match s.eng.phase with
  | .pNone => .internal s
  | .pZhdr => fetchZlib s
  | .pBhdr => fetchRead .blockHeader (readField 3 s)
  | .pStoredHdr => fetchRead .storedHeader (readField 32 s)
  | .pStoredCopy =>
    if s.eng.lenRem = 0#16 then .internal (blockEnd s) else fetchRead .storedPayload (readField 8 s)
  | .pDynCounts => fetchRead .dynHeader (readField 14 s)
  | .pDynClen => fetchRead .cllField (readField 3 s)
  | .pDynLens => fetchRead .clenSymbol (decodeSymbol s.tab.clt s)
  | .pDynExtra => fetchDecoded .clenSymbol s.eng.sym.toNat s
  | .pSym => fetchRead .litlenSymbol (decodeSymbol s.tab.lit s)
  | .pLenExtra => fetchDecoded .litlenSymbol s.eng.sym.toNat s
  | .pDist => fetchRead .distSymbol (decodeSymbol s.tab.dist s)
  | .pDistExtra => fetchDecoded .distSymbol s.eng.sym.toNat s
  | .pCopy => .internal (copyByte s)

/-- The engine resumes: NEED_INPUT is recomputed (spec/10_state.md R63), the byte handed to the row stream comes before
anything else (spec/43_lz77.md R301), then the phase goes on. -/
def fetch (s : State) : Fetch :=
  let t := { s with eng := { s.eng with needInput := false } }
  match t.row.pending with
  | some v => fetchRow v t
  | none => fetchPhase t

/-- One micro-step of the engine. -/
def engineStep (ex : Instr → State → Result) (s : State) : Result :=
  match fetch s with
  | .instr i t => ex i t
  | .internal t => .next t
  | .noRow f v => .fault (.noRow f v)

/-! ### RunEngine (spec/48_host_interface.md R455, R456) -/

/-- What a phase weighs in `runMeasure`. -/
def phaseMeasure (s : State) : Nat :=
  match s.eng.phase with
  | .pCopy => 1
  | .pStoredCopy => if s.eng.lenRem = 0#16 then 1 else 0
  | .pDynExtra => 1100
  | .pLenExtra => 1100
  | .pDistExtra => 1100
  | .pNone => 0
  | .pZhdr => 0
  | .pBhdr => 0
  | .pStoredHdr => 0
  | .pDynCounts => 0
  | .pDynClen => 0
  | .pDynLens => 0
  | .pSym => 0
  | .pDist => 0

/-- A number that falls at every micro-step that does not end in quiescence: it counts the input bits left and the
bytes left to copy (the reason spec/48_host_interface.md R456 gives for termination). -/
def runMeasure (s : State) : Nat :=
  2560 * (s.rd.nbits + 8 * s.rd.fifo.length) + (if s.rd.fieldBits = [] then 0 else 1200)
    + 2 * s.eng.copyLen.toNat + (if s.row.pending = none then 0 else 1) + phaseMeasure s

/-- At most `fuel` micro-steps, until the engine is idle. -/
def runSteps (ex : Instr → State → Result) : Nat → State → Result
  | 0, s => .next s
  | n + 1, s => if engineIdle s then .next s else andThen (engineStep ex s) (runSteps ex n)

/-- `RunEngine()` (spec/48_host_interface.md R455): micro-steps until the engine is idle. -/
def runEngine (ex : Instr → State → Result) (s : State) : Result := runSteps ex (runMeasure s + 1) s

/-! ### The step of a host access (spec/20_memory.md R86, R90) -/

/-- One host operation and the RunEngine that follows it (spec/48_host_interface.md R444, R455); a bus error is no
accepted access and nothing follows it (R454). -/
def hostOperation (ex : Instr → State → Result) (i : Instr) (s : State) : Result :=
  match i with
  | .busError a => ex (.busError a) s
  | j => andThen (ex j s) (runEngine ex)

/-- The operations of one access, in order. -/
def hostOperations (ex : Instr → State → Result) : List Instr → State → Result
  | [], s => .next s
  | i :: is, s => andThen (hostOperation ex i s) (hostOperations ex is)

/-- The access `a` of the host's bus: below `BASE_ADDR` the block does not decode it (spec/20_memory.md R85, R88), else
its offset is decoded. -/
def hostAccess (ex : Instr → State → Result) (a : BusAccess) (s : State) : Result :=
  if a.addr < s.cfg.baseAddr then undecoded s
  else hostOperations ex (decodeAccess s.cfg.rowWinSize ⟨a.op, a.width, a.addr - s.cfg.baseAddr⟩) s

/-- One step: a micro-step while the engine is not idle; else the next access of the host, with the engine's run, as
one atomic step (in every state reached from reset the engine is idle between steps); else nothing. -/
def stepWith (ex : Instr → State → Result) (s : State) : Result :=
  if engineIdle s then
    match s.host.queue with
    | [] => .next s
    | a :: rest => hostAccess ex a { s with host := { s.host with queue := rest } }
  else engineStep ex s

/-! ### Placing one instruction for the next step -/

/-- The phase at which an element of format `f` is read; a row byte may arrive at any phase that emits. -/
def placePhase (f : Format) : Phase :=
  match f with
  | .zlibHeader => .pZhdr
  | .blockHeader => .pBhdr
  | .storedHeader => .pStoredHdr
  | .storedPayload => .pStoredCopy
  | .dynHeader => .pDynCounts
  | .cllField => .pDynClen
  | .clenSymbol => .pDynLens
  | .litlenSymbol => .pSym
  | .distSymbol => .pDist
  | .rowFilter => .pSym

/-- The element `v` of format `f` in front of the engine: in RUN, at the format's phase, at a byte boundary, with the
element's bits and zeros after them in the FIFO, and with tables that have a code for every symbol. -/
def placeField (f : Format) (v : Nat) (s : State) : State :=
  { s with
    ses := { s.ses with state := .run }
    rd := { s.rd with curByte := 0#8, nbits := 0, fieldBits := [], fifo := packBits 4 (elementBits f v) }
    trav := Traversal.fresh
    eng :=
      { s.eng with
        phase := placePhase f, needInput := false
        lenRem := if f = .storedPayload then 1#16 else s.eng.lenRem }
    tab :=
      if f = .litlenSymbol ∨ f = .distSymbol then { s.tab with lit := fixedLit, dist := fixedDist }
      else if f = .clenSymbol then { s.tab with clt := build (placedClenLengths.map BitVec.toNat) }
      else s.tab
    row :=
      if f = .rowFilter then
        { s.row with rowReady := false, col := 0, pending := some (BitVec.ofNat 8 v) }
      else { s.row with rowReady := false, pending := none } }

/-- The access `a` in front of the host's other accesses, with the engine idle. -/
def placeAccess (a : HostAccess) (s : State) : State :=
  let t :=
    if engineIdle s then s
    else { s with eng := { s.eng with phase := .pNone }, row := { s.row with pending := none } }
  { t with host := { t.host with queue := ⟨a.op, a.width, s.cfg.baseAddr + a.offset⟩ :: t.host.queue } }

/-- The word `w` of `nbits` bits in front of the next step; a word that no row of the table stands for places
nothing. -/
def placeWord (nbits w : Nat) (s : State) : State :=
  match tableCode nbits w with
  | some (.field f v) => placeField f v s
  | some (.access a) => placeAccess a s
  | none => s

end Sys2Proof.Machine
end

