-- ==== Sys2Proof/Machine/Dispatch.lean ====
section
/-! DEFINITION. One arm per constructor of `Instr`, in the order of spec/opcode_table.json: one call of its meaning. -/

namespace Sys2Proof.Machine

/-- The effect of one instruction, after its bits have been fetched. -/
def exec (i : Instr) (s : State) : Host.Outcome State Fault Refusal :=
  match i with
  | .zlibHdrBadCm cmf flg => Sys2Proof.Machine.execZlibHdrBadCm cmf flg s
  | .zlibHdrBadCinfo cmf flg => Sys2Proof.Machine.execZlibHdrBadCinfo cmf flg s
  | .zlibHdrBadFcheck cmf flg => Sys2Proof.Machine.execZlibHdrBadFcheck cmf flg s
  | .zlibHdrFdict cmf flg => Sys2Proof.Machine.execZlibHdrFdict cmf flg s
  | .zlibHdr cmf flg => Sys2Proof.Machine.execZlibHdr cmf flg s
  | .blkStored bfinal => Sys2Proof.Machine.execBlkStored bfinal s
  | .blkFixed bfinal => Sys2Proof.Machine.execBlkFixed bfinal s
  | .blkDynamic bfinal => Sys2Proof.Machine.execBlkDynamic bfinal s
  | .blkReserved bfinal => Sys2Proof.Machine.execBlkReserved bfinal s
  | .storedHdr len nlen => Sys2Proof.Machine.execStoredHdr len nlen s
  | .storedHdrBadNlen len nlen => Sys2Proof.Machine.execStoredHdrBadNlen len nlen s
  | .storedByte v => Sys2Proof.Machine.execStoredByte v s
  | .dynHdr hlit hdist hclen => Sys2Proof.Machine.execDynHdr hlit hdist hclen s
  | .dynHdrBadCounts hlit hdist hclen => Sys2Proof.Machine.execDynHdrBadCounts hlit hdist hclen s
  | .cll length => Sys2Proof.Machine.execCll length s
  | .clLen length => Sys2Proof.Machine.execClLen length s
  | .clRepeatPrev => Sys2Proof.Machine.execClRepeatPrev s
  | .clRepeatZero3 => Sys2Proof.Machine.execClRepeatZero3 s
  | .clRepeatZero11 => Sys2Proof.Machine.execClRepeatZero11 s
  | .lit v => Sys2Proof.Machine.execLit v s
  | .eob => Sys2Proof.Machine.execEob s
  | .len257 => Sys2Proof.Machine.execLen257 s
  | .len258 => Sys2Proof.Machine.execLen258 s
  | .len259 => Sys2Proof.Machine.execLen259 s
  | .len260 => Sys2Proof.Machine.execLen260 s
  | .len261 => Sys2Proof.Machine.execLen261 s
  | .len262 => Sys2Proof.Machine.execLen262 s
  | .len263 => Sys2Proof.Machine.execLen263 s
  | .len264 => Sys2Proof.Machine.execLen264 s
  | .len265 => Sys2Proof.Machine.execLen265 s
  | .len266 => Sys2Proof.Machine.execLen266 s
  | .len267 => Sys2Proof.Machine.execLen267 s
  | .len268 => Sys2Proof.Machine.execLen268 s
  | .len269 => Sys2Proof.Machine.execLen269 s
  | .len270 => Sys2Proof.Machine.execLen270 s
  | .len271 => Sys2Proof.Machine.execLen271 s
  | .len272 => Sys2Proof.Machine.execLen272 s
  | .len273 => Sys2Proof.Machine.execLen273 s
  | .len274 => Sys2Proof.Machine.execLen274 s
  | .len275 => Sys2Proof.Machine.execLen275 s
  | .len276 => Sys2Proof.Machine.execLen276 s
  | .len277 => Sys2Proof.Machine.execLen277 s
  | .len278 => Sys2Proof.Machine.execLen278 s
  | .len279 => Sys2Proof.Machine.execLen279 s
  | .len280 => Sys2Proof.Machine.execLen280 s
  | .len281 => Sys2Proof.Machine.execLen281 s
  | .len282 => Sys2Proof.Machine.execLen282 s
  | .len283 => Sys2Proof.Machine.execLen283 s
  | .len284 => Sys2Proof.Machine.execLen284 s
  | .len285 => Sys2Proof.Machine.execLen285 s
  | .litlenRsv286 => Sys2Proof.Machine.execLitlenRsv286 s
  | .litlenRsv287 => Sys2Proof.Machine.execLitlenRsv287 s
  | .dist0 => Sys2Proof.Machine.execDist0 s
  | .dist1 => Sys2Proof.Machine.execDist1 s
  | .dist2 => Sys2Proof.Machine.execDist2 s
  | .dist3 => Sys2Proof.Machine.execDist3 s
  | .dist4 => Sys2Proof.Machine.execDist4 s
  | .dist5 => Sys2Proof.Machine.execDist5 s
  | .dist6 => Sys2Proof.Machine.execDist6 s
  | .dist7 => Sys2Proof.Machine.execDist7 s
  | .dist8 => Sys2Proof.Machine.execDist8 s
  | .dist9 => Sys2Proof.Machine.execDist9 s
  | .dist10 => Sys2Proof.Machine.execDist10 s
  | .dist11 => Sys2Proof.Machine.execDist11 s
  | .dist12 => Sys2Proof.Machine.execDist12 s
  | .dist13 => Sys2Proof.Machine.execDist13 s
  | .dist14 => Sys2Proof.Machine.execDist14 s
  | .dist15 => Sys2Proof.Machine.execDist15 s
  | .dist16 => Sys2Proof.Machine.execDist16 s
  | .dist17 => Sys2Proof.Machine.execDist17 s
  | .dist18 => Sys2Proof.Machine.execDist18 s
  | .dist19 => Sys2Proof.Machine.execDist19 s
  | .dist20 => Sys2Proof.Machine.execDist20 s
  | .dist21 => Sys2Proof.Machine.execDist21 s
  | .dist22 => Sys2Proof.Machine.execDist22 s
  | .dist23 => Sys2Proof.Machine.execDist23 s
  | .dist24 => Sys2Proof.Machine.execDist24 s
  | .dist25 => Sys2Proof.Machine.execDist25 s
  | .dist26 => Sys2Proof.Machine.execDist26 s
  | .dist27 => Sys2Proof.Machine.execDist27 s
  | .dist28 => Sys2Proof.Machine.execDist28 s
  | .dist29 => Sys2Proof.Machine.execDist29 s
  | .distRsv30 => Sys2Proof.Machine.execDistRsv30 s
  | .distRsv31 => Sys2Proof.Machine.execDistRsv31 s
  | .filtNone => Sys2Proof.Machine.execFiltNone s
  | .filtSub => Sys2Proof.Machine.execFiltSub s
  | .filtUp => Sys2Proof.Machine.execFiltUp s
  | .filtAvg => Sys2Proof.Machine.execFiltAvg s
  | .filtPaeth => Sys2Proof.Machine.execFiltPaeth s
  | .filtInvalid v => Sys2Proof.Machine.execFiltInvalid v s
  | .ctrlAbort => Sys2Proof.Machine.execCtrlAbort s
  | .ctrlStart => Sys2Proof.Machine.execCtrlStart s
  | .ctrlRowAck => Sys2Proof.Machine.execCtrlRowAck s
  | .ctrlEoi => Sys2Proof.Machine.execCtrlEoi s
  | .inDataWrite data => Sys2Proof.Machine.execInDataWrite data s
  | .cfgWidthWrite data => Sys2Proof.Machine.execCfgWidthWrite data s
  | .cfgHeightWrite data => Sys2Proof.Machine.execCfgHeightWrite data s
  | .cfgBppWrite data => Sys2Proof.Machine.execCfgBppWrite data s
  | .regRead offset => Sys2Proof.Machine.execRegRead offset s
  | .rowRead width offset => Sys2Proof.Machine.execRowRead width offset s
  | .ignoredWrite width offset data => Sys2Proof.Machine.execIgnoredWrite width offset data s
  | .busError a => Sys2Proof.Machine.execBusError a s

end Sys2Proof.Machine
end

