-- ==== Sys2Proof/Machine/Step.lean ====
section
/-! DEFINITION. The step of the machine, and the placing of one word of spec/opcode_table.json for it. -/

namespace Sys2Proof.Machine

/-- One step (Machine/Engine.lean, `stepWith`). -/
def step (s : State) : Host.Outcome State Fault Refusal := stepWith exec s

/-- `s` with the word `w` where `step` takes its next instruction (Machine/Engine.lean, `placeWord`; log entry 6 says
how a program comes to run from reset). -/
def State.withFetchWord (s : State) (nbits w : Nat) : State := placeWord nbits w s

end Sys2Proof.Machine
end

