-- ==== Sys2Proof/Safety.lean ====
section
/-! DEFINITION. What every state of a run satisfies: the relations between fields that the spec's rules rest on
(`State.Inv`), and quiescence between host accesses (`State.Quiet`). -/

namespace Sys2Proof.Machine

/-- The table decodes to symbols below `n` only (spec/42_huffman.md R250, R260): the counts have an entry for every
length 0..15, no code has length 0, and there is one symbol for each code. -/
def HuffTable.sound (n : Nat) (t : HuffTable) : Bool :=
  decide (t.count.length = 16) && decide (t.count.getD 0 0 = 0) && decide (t.symbol.length = t.count.sum)
    && t.symbol.all (fun x => decide (x < n))

/-- The traversal registers stand between two iterations of `Decode(t)`: `code ≥ first` and `index` is the number of
shorter codes (the invariant of spec/42_huffman.md R268). -/
def Traversal.within (t : HuffTable) (r : Traversal) : Bool :=
  decide (1 ≤ r.len) && decide (r.first ≤ r.code) && decide (r.index = (t.count.take r.len).sum)

/-- Symbol, base and number of extra bits of every length symbol (spec/30_encoding.md R128): the lower half. -/
def lengthRowsLow : List (Instr × Nat × Nat × Nat) :=
  [(.len257, 257, 3, 0), (.len258, 258, 4, 0), (.len259, 259, 5, 0), (.len260, 260, 6, 0), (.len261, 261, 7, 0),
   (.len262, 262, 8, 0), (.len263, 263, 9, 0), (.len264, 264, 10, 0), (.len265, 265, 11, 1), (.len266, 266, 13, 1),
   (.len267, 267, 15, 1), (.len268, 268, 17, 1), (.len269, 269, 19, 2), (.len270, 270, 23, 2), (.len271, 271, 27, 2)]

/-- Symbol, base and number of extra bits of every length symbol (spec/30_encoding.md R128): the upper half. -/
def lengthRowsHigh : List (Instr × Nat × Nat × Nat) :=
  [(.len272, 272, 31, 2), (.len273, 273, 35, 3), (.len274, 274, 43, 3), (.len275, 275, 51, 3),
   (.len276, 276, 59, 3), (.len277, 277, 67, 4), (.len278, 278, 83, 4), (.len279, 279, 99, 4), (.len280, 280, 115, 4),
   (.len281, 281, 131, 5), (.len282, 282, 163, 5), (.len283, 283, 195, 5), (.len284, 284, 227, 5),
   (.len285, 285, 258, 0)]

/-- Symbol, base and number of extra bits of every length symbol (spec/30_encoding.md R128). -/
def lengthRows : List (Instr × Nat × Nat × Nat) := lengthRowsLow ++ lengthRowsHigh

/-- Symbol, base and number of extra bits of every distance symbol (spec/30_encoding.md R129): the lower half. -/
def distanceRowsLow : List (Instr × Nat × Nat × Nat) :=
  [(.dist0, 0, 1, 0), (.dist1, 1, 2, 0), (.dist2, 2, 3, 0), (.dist3, 3, 4, 0), (.dist4, 4, 5, 1), (.dist5, 5, 7, 1),
   (.dist6, 6, 9, 2), (.dist7, 7, 13, 2), (.dist8, 8, 17, 3), (.dist9, 9, 25, 3), (.dist10, 10, 33, 4),
   (.dist11, 11, 49, 4), (.dist12, 12, 65, 5), (.dist13, 13, 97, 5), (.dist14, 14, 129, 6), (.dist15, 15, 193, 6)]

/-- Symbol, base and number of extra bits of every distance symbol (spec/30_encoding.md R129): the upper half. -/
def distanceRowsHigh : List (Instr × Nat × Nat × Nat) :=
  [(.dist16, 16, 257, 7), (.dist17, 17, 385, 7), (.dist18, 18, 513, 8), (.dist19, 19, 769, 8),
   (.dist20, 20, 1025, 9), (.dist21, 21, 1537, 9), (.dist22, 22, 2049, 10), (.dist23, 23, 3073, 10),
   (.dist24, 24, 4097, 11), (.dist25, 25, 6145, 11), (.dist26, 26, 8193, 12), (.dist27, 27, 12289, 12),
   (.dist28, 28, 16385, 13), (.dist29, 29, 24577, 13)]

/-- Symbol, base and number of extra bits of every distance symbol (spec/30_encoding.md R129). -/
def distanceRows : List (Instr × Nat × Nat × Nat) := distanceRowsLow ++ distanceRowsHigh

/-- The number of extra bits of a symbol in a table of symbols; 0 where it is not listed. -/
def extraOf (rows : List (Instr × Nat × Nat × Nat)) (sym : Nat) : Nat :=
  match rows with
  | [] => 0
  | r :: rest => if r.2.1 = sym then r.2.2.2 else extraOf rest sym

/-- The number of extra bits of a repeat symbol of the code-length alphabet (spec/30_encoding.md R132). -/
def repeatExtra (sym : Nat) : Nat := if sym = 16 then 2 else if sym = 17 then 3 else if sym = 18 then 7 else 0

/-- How many bits of the field it reads can have been read at a phase (spec/10_state.md R42). -/
def State.fieldLimit (s : State) : Nat :=
  match s.eng.phase with
  | .pNone => 32
  | .pZhdr => 16
  | .pBhdr => 3
  | .pStoredHdr => 32
  | .pStoredCopy => if s.eng.lenRem = 0#16 then 0 else 8
  | .pDynCounts => 14
  | .pDynClen => 3
  | .pDynLens => 0
  | .pDynExtra => repeatExtra s.eng.sym.toNat
  | .pSym => 0
  | .pLenExtra => extraOf lengthRows s.eng.sym.toNat
  | .pDist => 0
  | .pDistExtra => extraOf distanceRows s.eng.sym.toNat
  | .pCopy => 0

/-- The tables the phase reads are sound, the traversal registers belong to the phase, and a symbol whose extra bits
are being read has some (spec/42_huffman.md R267, spec/43_lz77.md R300). -/
def State.continuationOk (s : State) : Bool :=
  let block := s.tab.lit.sound 288 && s.tab.dist.sound 32
  let fresh := decide (s.trav = Traversal.fresh)
  match s.eng.phase with
  | .pNone => true
  | .pZhdr => fresh
  | .pBhdr => fresh
  | .pStoredHdr => fresh
  | .pStoredCopy => fresh
  | .pDynCounts => fresh
  | .pDynClen => fresh
  | .pDynLens => s.tab.clt.sound 19 && s.trav.within s.tab.clt
  | .pDynExtra =>
    s.tab.clt.sound 19 && fresh && decide (16 ≤ s.eng.sym.toNat) && decide (s.eng.sym.toNat ≤ 18)
  | .pSym => block && s.trav.within s.tab.lit
  | .pLenExtra => block && fresh && decide (257 ≤ s.eng.sym.toNat) && decide (s.eng.sym.toNat ≤ 285)
  | .pDist => block && s.trav.within s.tab.dist
  | .pDistExtra => block && fresh && decide (s.eng.sym.toNat ≤ 29)
  | .pCopy => block && fresh

/-- The invariant of the machine. -/
structure State.Inv (s : State) : Prop where
  /-- the parameters are in their ranges (spec/00_scope.md R9) -/
  cfgOk : s.cfg.wf = true
  /-- the window is a canonical memory of 32768 bytes (spec/10_state.md R44) -/
  winOk : Memory.wf 32768 s.win.win = true
  /-- `hist` is 0..32768 (R44) -/
  histOk : s.win.hist ≤ 32768
  /-- `hist` is the number of bytes emitted in this session, up to 32768, and they stand just behind `wp` (R44, R46):
  until the window is full they are its first `hist` bytes -/
  sessionOk : s.win.hist < 32768 → s.win.wp.toNat = s.win.hist ∧ s.eng.outCount = BitVec.ofNat 32 s.win.hist
  /-- the ranges of `copy_len` and `copy_dist` (R43), and the guarantee of spec/43_lz77.md R368: a copy reads no farther
  back than the bytes emitted in this session -/
  copyOk : s.eng.copyLen.toNat ≤ 258 ∧ s.eng.copyDist.toNat ≤ 32768
    ∧ (s.eng.phase = .pDist ∨ s.eng.phase = .pDistExtra → 3 ≤ s.eng.copyLen.toNat)
    ∧ (s.eng.phase = .pCopy → 1 ≤ s.eng.copyDist.toNat ∧ s.eng.copyDist.toNat ≤ s.win.hist)
  /-- `cur` is a canonical memory of at most `MAX_ROW_BYTES` bytes (R45) -/
  curOk : Memory.wf s.cfg.maxRowBytes s.row.cur = true
  /-- `prior` likewise (R45) -/
  priorOk : Memory.wf s.cfg.maxRowBytes s.row.prior = true
  /-- `nbits` unread bits, right-aligned in `cur_byte` (R34); between two reads at most 7 -/
  bitsOk : s.rd.nbits ≤ 7 ∧ s.rd.curByte.toNat < 2 ^ s.rd.nbits
  /-- the FIFO holds at most `IN_FIFO_DEPTH` bytes (R35) -/
  fifoOk : s.rd.fifo.length ≤ s.cfg.inFifoDepth
  /-- `in_count` is the number of bytes taken modulo 2^32 (R46), and no bit is held of a byte that was not taken
  (spec/40_bit_reader.md R204) -/
  takenOk : s.rd.inCount = BitVec.ofNat 32 s.rd.bytesTaken ∧ s.rd.nbits ≤ 8 * s.rd.bytesTaken
  /-- a field of which bits have been read is one the phase reads (R42) -/
  fieldOk : s.rd.fieldBits.length ≤ s.fieldLimit
  /-- the sizes of the dynamic-header registers (R39) -/
  dynOk : s.dyn.cl.length = 19 ∧ s.dyn.hlit ≤ 288 ∧ s.dyn.hdist ≤ 32
  /-- tables and traversal registers agree with the phase -/
  contOk : s.continuationOk = true
  /-- outside RUN there is no input, no row and no continuation (R31; spec/60_exceptions.md R503; R205, R443) -/
  outsideRun : s.ses.state ≠ .run →
    s.rd.fifo = [] ∧ s.row.rowReady = false ∧ s.row.pending = none ∧ s.eng.phase = .pNone ∧ s.eng.needInput = false
  /-- in RUN the latched configuration is a valid one (spec/48_host_interface.md R442, spec/00_scope.md R10) -/
  runConfig : s.ses.state = .run →
    configError s.cfg s.ses.width s.ses.height s.ses.bpp = none
      ∧ s.ses.rowbytes = s.ses.width.toNat * s.ses.bpp.toNat ∧ s.ses.stride = s.ses.rowbytes + 1
  /-- in RUN the engine has a phase, `col` is in the row, and no more than `height` rows are done (R33, R45) -/
  runRow : s.ses.state = .run →
    s.eng.phase ≠ .pNone ∧ s.row.col < s.ses.stride ∧ s.row.rowsDone.toNat ≤ s.ses.height.toNat
  /-- a row waits, or a byte goes to the row stream, only within the image; and not both
  (spec/45_defilter.md R410, R412) -/
  rowOk : (s.row.rowReady = true → s.row.col = 0 ∧ s.row.pending = none ∧ s.row.rowsDone.toNat < s.ses.height.toNat)
    ∧ (s.row.pending ≠ none → s.row.rowsDone.toNat < s.ses.height.toNat)
  /-- DONE only with all rows delivered (R31, spec/41_zlib_blocks.md R235) -/
  doneOk : s.ses.state = .done → s.row.rowsDone = s.ses.height
  /-- an error is recorded exactly in ERROR, and it is one of the causes (spec/60_exceptions.md R501, R502) -/
  errorOk :
    (s.ses.state = .error →
      (∃ c : Cause, s.err.kind = c.kind ∧ s.err.cause = c.code) ∧ s.err.bits.toNat ≤ 8)
    ∧ (s.ses.state ≠ .error → s.err = { kind := 0#3, cause := 0#8, bits := 0#4 })

/-- The next thing the continuation does is to read a bit: the field of the phase is not complete, or the code being
decoded may go on (spec/10_state.md R33, R41, R42). -/
def State.awaitsBit (s : State) : Bool :=
  let n := s.rd.fieldBits.length
  decide (s.row.pending = none) &&
    match s.eng.phase with
    | .pNone => false
    | .pCopy => false
    | .pZhdr => decide (n < 16)
    | .pBhdr => decide (n < 3)
    | .pStoredHdr => decide (n < 32)
    | .pStoredCopy => decide (s.eng.lenRem ≠ 0#16) && decide (n < 8)
    | .pDynCounts => decide (n < 14)
    | .pDynClen => decide (n < 3)
    | .pDynLens => decide (s.trav.len ≤ 15)
    | .pSym => decide (s.trav.len ≤ 15)
    | .pDist => decide (s.trav.len ≤ 15)
    | .pDynExtra =>
      decide (n < repeatExtra s.eng.sym.toNat) && !(decide (s.eng.sym = 16#9) && s.dyn.lens.isEmpty)
    | .pLenExtra => decide (n < extraOf lengthRows s.eng.sym.toNat)
    | .pDistExtra => decide (n < extraOf distanceRows s.eng.sym.toNat)

/-- Quiescence (spec/48_host_interface.md R455): the engine has nothing to do, and NEED_INPUT is set only where it is
suspended inside `ReadBit` (spec/40_bit_reader.md R201): at a byte boundary, with the FIFO empty, where the phase needs a bit. -/
structure State.Quiet (s : State) : Prop where
  idle : engineIdle s = true
  needOk : s.eng.needInput = true →
    s.ses.state = .run ∧ s.row.rowReady = false ∧ needsByte s = true ∧ s.rd.nbits = 0 ∧ s.awaitsBit = true

/-! ### Terms the statements use -/

/-- The state after the host's first access has left its queue. -/
def State.popAccess (s : State) : State := { s with host := { s.host with queue := s.host.queue.tail } }

/-- A 32-bit write of `data` to the register at `offset`, as the host's bus carries it. -/
def State.busWrite (s : State) (offset : Nat) (data : Word) : BusAccess := ⟨.write data, .b4, s.cfg.baseAddr + offset⟩

/-- One command and the RunEngine that follows it (spec/48_host_interface.md R444, R455). -/
def command (i : Instr) (s : State) : Result := andThen (exec i s) (runEngine exec)

/-- A command of a CTRL write, where its bit is set (spec/48_host_interface.md R444). -/
def commandIf (b : Bool) (i : Instr) (s : State) : Result := if b then command i s else .next s

/-- The instructions the decoder reads from a bus access at or above `BASE_ADDR`. -/
def State.accessInstrs (s : State) (a : BusAccess) : List Instr :=
  decodeAccess s.cfg.rowWinSize ⟨a.op, a.width, a.addr - s.cfg.baseAddr⟩

/-- The fields of a fixed width: the phase, the format and the number of bits (spec/30_encoding.md R122 to R133). -/
def fieldPhases : List (Phase × Format × Nat) :=
  [(.pBhdr, .blockHeader, 3), (.pStoredHdr, .storedHeader, 32), (.pStoredCopy, .storedPayload, 8),
   (.pDynCounts, .dynHeader, 14), (.pDynClen, .cllField, 3)]

/-- The Huffman-coded elements: the phase, the format, and the table that decodes it (spec/43_lz77.md R300,
spec/42_huffman.md R253). -/
def State.codedPhases (s : State) : List (Phase × Format × HuffTable) :=
  [(.pDynLens, .clenSymbol, s.tab.clt), (.pSym, .litlenSymbol, s.tab.lit), (.pDist, .distSymbol, s.tab.dist)]

/-- The phases in which the extra bits of a decoded symbol are read, with the symbol's format (spec/43_lz77.md R300,
spec/42_huffman.md R257 to R259). -/
def extraPhases : List (Phase × Format) :=
  [(.pDynExtra, .clenSymbol), (.pLenExtra, .litlenSymbol), (.pDistExtra, .distSymbol)]

/-- What a read answers when no bit is left (spec/40_bit_reader.md R201): TRUNCATED after END_OF_INPUT, else the engine
is suspended for input. -/
def inputEnds (s : State) : Result :=
  if s.rd.eoi then .next (raise .truncated s) else .next { s with eng := { s.eng with needInput := true } }

/-- The window after `n` iterations of COPY at distance `d` (spec/43_lz77.md R369). -/
def copyWindow (d : Nat) : Nat → Window → Window
  | 0, w => w
  | n + 1, w => copyWindow d n (winWrite (winRead d w) w)

/-- The prefix space the code lengths use, in units of one 15-bit code (spec/42_huffman.md R261). -/
def codeSpaceUsed (lens : List Nat) : Nat := (lens.map fun l => if l = 0 then 0 else 2 ^ (15 - l)).sum

/-- The predictions `P_t(a, b, c)` of spec/45_defilter.md R414. -/
def prediction : FilterType → Byte → Byte → Byte → Byte
  | .none, _, _, _ => 0#8
  | .sub, a, _, _ => a
  | .up, _, b, _ => b
  | .avg, a, b, _ => average a b
  | .paeth, a, b, c => paeth a b c

/-- The filter `F_t(r, q)[x]` of spec/45_defilter.md R414. -/
def filteredByte (t : FilterType) (bpp : Nat) (q r : Nat → Byte) (x : Nat) : Byte :=
  r x - prediction t (if bpp ≤ x then r (x - bpp) else 0#8) (q x) (if bpp ≤ x then q (x - bpp) else 0#8)

/-- The bytes of a row of filter type `t`, its filter-type byte first, handed to the row stream one after another. -/
def feedRow (t : FilterType) : List Byte → State → Result
  | [], s => .next s
  | v :: vs, s =>
    andThen (exec (filterInstr t) { s with row := { s.row with pending := some v } }) (feedRow t vs)

end Sys2Proof.Machine
end

