-- ==== Sys2Proof/Certificates/Slice0/Obligations.lean ====
section
/-! DEFINITION. The statements about the machine, one `def Obligations.<Name> : Prop` each; OBLIGATIONS.json lists them
with the rules of spec/ they rest on. -/

open Sys2Proof Sys2Proof.Machine

/-! ### Encoding (spec/30_encoding.md) -/

/-- Numbers written out from the tables of spec/30_encoding.md decode to the instructions they stand for. -/
def Obligations.WrittenWordsDecode : Prop :=
  decodeField .zlibHeader 0b0111100000000001 = .ok (.zlibHdr 0x78#8 0x01#8)
    ∧ decodeField .zlibHeader 0b0111100000100000 = .ok (.zlibHdrFdict 0x78#8 0x20#8)
    ∧ decodeField .blockHeader 0b011 = .ok (.blkFixed true)
    ∧ decodeField .blockHeader 0b100 = .ok (.blkDynamic false)
    ∧ decodeField .storedHeader (6 + 65536 * 0xFFF9) = .ok (.storedHdr 6#16 0xFFF9#16)
    ∧ decodeField .storedPayload 0x0A = .ok (.storedByte 0x0A#8)
    ∧ decodeField .dynHeader (1 + 32 * 0 + 1024 * 14) = .ok (.dynHdr 1#5 0#5 14#4)
    ∧ decodeField .cllField 0b101 = .ok (.cll 5#3)
    ∧ decodeField .clenSymbol 0b10001 = .ok .clRepeatZero3
    ∧ decodeField .litlenSymbol 0b011111111 = .ok (.lit 255#8)
    ∧ decodeField .litlenSymbol 0b100000000 = .ok .eob
    ∧ decodeField .litlenSymbol 0b100011101 = .ok .len285
    ∧ decodeField .distSymbol 0b11101 = .ok .dist29
    ∧ decodeField .rowFilter 0b00000100 = .ok .filtPaeth
    ∧ decodeAccess 16 ⟨.write 0x12345678#32, .b4, 0x018⟩ = [.inDataWrite 0x12345678#32]
    ∧ decodeAccess 16 ⟨.write 0xD#32, .b4, 0x000⟩ = [.ctrlStart, .ctrlRowAck, .ctrlEoi]
    ∧ decodeAccess 16 ⟨.read, .b2, 0x100E⟩ = [.rowRead .b2 0x100E]
    ∧ decodeAccess 16 ⟨.read, .b2, 0x100F⟩ = [.busError ⟨.read, .b2, 0x100F⟩]

/-- Decoding the encoded form of any well-formed instruction, at every operand value, gives it back. -/
def Obligations.DecodeOfEncode : Prop :=
  ∀ (rowWin : Nat) (i : Instr), i.wf rowWin = true → decode rowWin (encode i) = .ok [i]

/-- Exactly the values of a format that can occur have a row (all but code-length symbols 19..31 and literal/length
symbols 288..511), and only one: the instruction a value decodes to is well formed and encodes to that value. -/
def Obligations.EveryValueHasOneRow : Prop :=
  ∀ (f : Format) (v : Nat), v < 2 ^ f.bits →
    ((∃ i, decodeField f v = .ok i) ↔ ¬ (f = .clenSymbol ∧ 19 ≤ v) ∧ ¬ (f = .litlenSymbol ∧ 288 ≤ v))
      ∧ ∀ (rowWin : Nat) (i : Instr), decodeField f v = .ok i → i.wf rowWin = true ∧ encode i = .field f v

/-! ### Bit Reader (spec/40_bit_reader.md) -/

/-- `ReadBit` in each of its four cases. The unbounded count of the bytes taken beside `in_count` is log entry 7. -/
def Obligations.ReadBitTakesNextBit : Prop :=
  ∀ s : State,
    (s.rd.nbits = 0 → s.rd.fifo = [] → s.rd.eoi = true → readBit s = .stop (raise .truncated s))
      ∧ (s.rd.nbits = 0 → s.rd.fifo = [] → s.rd.eoi = false →
        readBit s = .stop { s with eng := { s.eng with needInput := true } })
      ∧ (∀ (b : Byte) (rest : List Byte), s.rd.nbits = 0 → s.rd.fifo = b :: rest →
        readBit s = .done (b.getLsbD 0)
          { s with
            rd :=
              { s.rd with
                curByte := b >>> 1, nbits := 7, fifo := rest
                inCount := s.rd.inCount + 1#32
                bytesTaken := s.rd.bytesTaken + 1 } })
      ∧ (s.rd.nbits ≠ 0 →
        readBit s = .done (s.rd.curByte.getLsbD 0)
          { s with rd := { s.rd with curByte := s.rd.curByte >>> 1, nbits := s.rd.nbits - 1 } })

/-- `ReadBits(n)`, begun or resumed after some of its bits, returns the bits already read and the next unread ones, first
bit least significant, and consumes exactly them: the input bit position advances by their number, with no wrap-around.
`AlignToByte` moves it to the next multiple of 8. The count of bytes taken that the position rests on is log entry 7. -/
def Obligations.ReadBitsTakesNextBits : Prop :=
  (∀ (n : Nat) (s : State),
    (let k := n - s.rd.fieldBits.length
     let pend := s.rd.pendingBits
     s.rd.fieldBits.length ≤ n → k ≤ pend.length →
      ∃ r : Reader, takeBits k s = some (pend.take k, { s with rd := r })
        ∧ readField n s =
          .done (bitsToNat (s.rd.fieldBits ++ pend.take k)) { s with rd := { r with fieldBits := [] } }
        ∧ r.pendingBits = pend.drop k ∧ r.fieldBits = s.rd.fieldBits ∧ r.eoi = s.rd.eoi
        ∧ (s.rd.nbits ≤ 8 * s.rd.bytesTaken → r.bitPosition = s.rd.bitPosition + k)))
  ∧ ∀ s : State,
    (let t := alignToByte s
     t = { s with rd := t.rd } ∧ t.rd.fifo = s.rd.fifo ∧ t.rd.bytesTaken = s.rd.bytesTaken
      ∧ t.rd.bitPosition % 8 = 0
      ∧ (s.rd.nbits ≤ 8 * s.rd.bytesTaken → t.rd.bitPosition = s.rd.bitPosition + s.rd.nbits))

/-- A field or a Huffman code split across input bytes that arrive in separate accesses is read exactly as if the bytes
had come together. -/
def Obligations.SplitInputReadsAlike : Prop :=
  ∀ (s t : State) (bs : List Byte), s.rd.eoi = false → t.eng.needInput = true →
    (let late := { t with rd := { t.rd with fifo := bs }, eng := { t.eng with needInput := s.eng.needInput } }
     let whole := { s with rd := { s.rd with fifo := s.rd.fifo ++ bs } }
     (∀ n : Nat, readField n s = .stop t → readField n late = readField n whole)
      ∧ (∀ tbl : HuffTable, decodeSymbol tbl s = .stop t → decodeSymbol tbl late = decodeSymbol tbl whole))

/-! ### Errors (spec/60_exceptions.md) -/

/-- `raise K(C)`: the record, ERROR, the withdrawn row, the discarded input, the dropped continuation; nothing else. And
it is the only way into ERROR: a step that enters ERROR leaves the record of one of the causes, no row, no input and no
continuation. That "at least one input byte has been taken in this session" is read off the count of bytes taken is
log entry 7. -/
def Obligations.RaiseEntersError : Prop :=
  (∀ (c : Cause) (s : State),
    raise c s =
      { s with
        err :=
          { kind := c.kind, cause := c.code
            bits := if s.rd.bytesTaken = 0 then 0#4 else BitVec.ofNat 4 (8 - s.rd.nbits) }
        ses := { s.ses with state := .error }
        row := { s.row with rowReady := false, pending := none }
        rd := { s.rd with fifo := [] }
        eng := { s.eng with phase := .pNone, needInput := false } }
      ∧ (raise c s).needInputFlag = false)
    ∧ ∀ s t : State, step s = .next t → s.ses.state ≠ .error → t.ses.state = .error →
      (∃ c : Cause, t.err =
        { kind := c.kind, cause := c.code
          bits := if t.rd.bytesTaken = 0 then 0#4 else BitVec.ofNat 4 (8 - t.rd.nbits) })
        ∧ t.row.rowReady = false ∧ t.row.pending = none ∧ t.rd.fifo = [] ∧ t.eng.phase = .pNone
        ∧ t.eng.needInput = false

/-! ### zlib header, block headers, stored blocks (spec/41_zlib_blocks.md) -/

/-- The five zlib headers. -/
def Obligations.ZlibHeaderResults : Prop :=
  ∀ (cmf flg : Byte) (s : State),
    exec (.zlibHdr cmf flg) s = .next { s with eng := { s.eng with phase := .pBhdr } }
      ∧ exec (.zlibHdrBadCm cmf flg) s = .next (raise .zlibCm s)
      ∧ exec (.zlibHdrBadCinfo cmf flg) s = .next (raise .zlibCinfo s)
      ∧ exec (.zlibHdrBadFcheck cmf flg) s = .next (raise .zlibFcheck s)
      ∧ exec (.zlibHdrFdict cmf flg) s = .next (raise .zlibFdict s)

/-- The first of the four header checks that fails is the one reported, and no other field of the header is looked
at. -/
def Obligations.ZlibChecksInOrder : Prop :=
  ∀ (cmf flg : Byte) (s : State), ∃ i, decodeField .zlibHeader (cmf.toNat * 256 + flg.toNat) = .ok i ∧
    exec i s = .next
      (if cmf.toNat % 16 ≠ 8 then raise .zlibCm s
       else if 7 < cmf.toNat / 16 then raise .zlibCinfo s
       else if (cmf.toNat * 256 + flg.toNat) % 31 ≠ 0 then raise .zlibFcheck s
       else if flg.toNat / 32 % 2 = 1 then raise .zlibFdict s
       else { s with eng := { s.eng with phase := .pBhdr } })

/-- The four block headers: BFINAL and BTYPE are recorded, FINAL_SEEN set with BFINAL; a stored block aligns, a fixed
block takes the fixed tables, a dynamic block reads its counts, a reserved type raises. That FINAL_SEEN, BFINAL and
BTYPE are written when the whole header has been read is log entry 8. -/
def Obligations.BlockHeaderResults : Prop :=
  ∀ (bfinal : Bool) (s : State),
    (let hdr := fun (b : BitVec 2) (p : Phase) =>
      { s.eng with bfinal := bfinal, btype := b, finalSeen := s.eng.finalSeen || bfinal, phase := p }
     exec (.blkStored bfinal) s =
        .next { s with eng := hdr 0#2 .pStoredHdr, rd := { s.rd with curByte := 0#8, nbits := 0 } }
      ∧ exec (.blkFixed bfinal) s =
        .next
          { s with
            eng := hdr 1#2 .pSym
            tab :=
              { s.tab with
                lit := build (List.replicate 144 8 ++ List.replicate 112 9 ++ List.replicate 24 7
                  ++ List.replicate 8 8)
                dist := build (List.replicate 32 5) } }
      ∧ exec (.blkDynamic bfinal) s = .next { s with eng := hdr 2#2 .pDynCounts }
      ∧ exec (.blkReserved bfinal) s = .next (raise .btypeReserved { s with eng := hdr 3#2 .pBhdr }))

/-- Stored blocks: LEN is taken into `len_rem`, a NLEN that is not its complement raises, a payload byte is emitted. That
the byte waits in `row.pending` for the row stream, where R301 calls RowByte at once, is log entry 12. -/
def Obligations.StoredBlockResults : Prop :=
  ∀ (len nlen : BitVec 16) (v : Byte) (s : State),
    exec (.storedHdr len nlen) s =
        .next { s with eng := { s.eng with lenRem := len, phase := .pStoredCopy } }
      ∧ exec (.storedHdrBadNlen len nlen) s = .next (raise .storedNlen s)
      ∧ exec (.storedByte v) s =
        .next
          { s with
            win :=
              { win := Memory.write s.win.win s.win.wp.toNat v, wp := s.win.wp + 1#15
                hist := min (s.win.hist + 1) 32768 }
            eng := { s.eng with lenRem := s.eng.lenRem - 1#16, outCount := s.eng.outCount + 1#32 }
            row := if s.row.rowsDone = s.ses.height then s.row else { s.row with pending := some v } }

/-- The end of a block, after EOB and after the last byte of a stored block alike: the next block header, or
END_OF_STREAM. That the end of a stored block is a micro-step of its own is log entries 6 and 12. -/
def Obligations.BlockEndResults : Prop :=
  ∀ s : State,
    exec .eob s = .next (blockEnd s)
      ∧ (s.row.pending = none → s.eng.phase = .pStoredCopy → s.eng.lenRem = 0#16 → engineIdle s = false →
        step s = .next (blockEnd { s with eng := { s.eng with needInput := false } }))
      ∧ (s.eng.bfinal = false → blockEnd s = { s with eng := { s.eng with phase := .pBhdr } })
      ∧ (s.eng.bfinal = true → s.row.rowsDone.toNat < s.ses.height.toNat → blockEnd s = raise .imageDataShort s)
      ∧ (s.eng.bfinal = true → s.ses.height.toNat ≤ s.row.rowsDone.toNat →
        blockEnd s =
          { s with
            ses := { s.ses with state := .done }
            rd := { s.rd with curByte := 0#8, nbits := 0, fifo := [] }
            eng := { s.eng with phase := .pNone, needInput := false } })

/-! ### Huffman tables and dynamic headers (spec/42_huffman.md) -/

/-- The status of a built table, by the prefix space its lengths use. -/
def Obligations.TableStatusByCodeSpace : Prop :=
  ∀ lens : List Nat, (∀ l ∈ lens, l ≤ 15) →
    ((build lens).status = .empty ↔ ∀ l ∈ lens, l = 0)
      ∧ ((build lens).status = .oversub ↔ 2 ^ 15 < codeSpaceUsed lens)
      ∧ ((build lens).status = .complete ↔ codeSpaceUsed lens = 2 ^ 15)
      ∧ ((build lens).status = .single1 ↔ lens.count 1 = 1 ∧ ∀ l ∈ lens, l ≤ 1)
      ∧ ((build lens).status = .incomplete ↔
        codeSpaceUsed lens < 2 ^ 15 ∧ (∃ l ∈ lens, l ≠ 0) ∧ ¬ (lens.count 1 = 1 ∧ ∀ l ∈ lens, l ≤ 1))

/-- The fixed tables are built from the fixed code lengths and are COMPLETE; the fixed code of every symbol decodes to it,
and exactly the code's bits are consumed. -/
def Obligations.FixedCodesDecode : Prop :=
  (fixedLit = build (List.replicate 144 8 ++ List.replicate 112 9 ++ List.replicate 24 7 ++ List.replicate 8 8)
      ∧ fixedDist = build (List.replicate 32 5))
    ∧ (fixedLit.status = .complete ∧ fixedDist.status = .complete)
    ∧ (∀ (sym : Nat) (s : State) (rest : List Bool), sym < 288 → s.trav = Traversal.fresh →
      s.rd.pendingBits = fixedLitCode sym ++ rest →
      ∃ t, decodeSymbol fixedLit s = .done sym t ∧ t = { s with rd := t.rd } ∧ t.rd.pendingBits = rest)
    ∧ (∀ (sym : Nat) (s : State) (rest : List Bool), sym < 32 → s.trav = Traversal.fresh →
      s.rd.pendingBits = fixedDistCode sym ++ rest →
      ∃ t, decodeSymbol fixedDist s = .done sym t ∧ t = { s with rd := t.rd } ∧ t.rd.pendingBits = rest)

/-- For every list of code lengths that is not over-subscribed, the canonical code of every coded symbol decodes to
that symbol, and exactly the code's bits are consumed. With a COMPLETE table every 15 bits begin with a code. With a
SINGLE1 table after the bit 1, and with an EMPTY table after any bits, 15 bits are read and INVALID_CODE is raised; if
the input ends first, TRUNCATED is. -/
def Obligations.CanonicalCodesDecode : Prop :=
  (∀ (lens : List Nat) (sym : Nat) (s : State) (rest : List Bool), (∀ l ∈ lens, l ≤ 15) →
    (build lens).status ≠ .oversub → lens.getD sym 0 ≠ 0 → s.trav = Traversal.fresh →
    s.rd.pendingBits = canonicalCode lens sym ++ rest →
    ∃ t, decodeSymbol (build lens) s = .done sym t ∧ t = { s with rd := t.rd } ∧ t.rd.pendingBits = rest)
  ∧ (∀ (lens : List Nat) (s : State), (∀ l ∈ lens, l ≤ 15) → (build lens).status = .complete →
    s.trav = Traversal.fresh → 15 ≤ s.rd.pendingBits.length →
    ∃ sym t, decodeSymbol (build lens) s = .done sym t ∧ sym < lens.length)
  ∧ ∀ (lens : List Nat) (s : State),
    (build lens).status = .empty ∨
      (build lens).status = .single1 ∧ s.rd.pendingBits.head? ≠ some false ∧ (∀ l ∈ lens, l ≤ 15) →
    s.trav = Traversal.fresh →
    (15 ≤ s.rd.pendingBits.length →
      ∃ (r : Reader) (tr : Traversal), takeBits 15 s = some (s.rd.pendingBits.take 15, { s with rd := r })
        ∧ (let u := raise .invalidCode { s with rd := r, trav := tr }
           decodeSymbol (build lens) s = .stop u
            ∧ u.ses.state = .error ∧ u.err.kind = 3#3 ∧ u.err.cause = 0x0E#8))
    ∧ (s.rd.pendingBits.length < 15 → s.rd.eoi = true →
      ∃ u, decodeSymbol (build lens) s = .stop u
        ∧ u.ses.state = .error ∧ u.err.kind = 3#3 ∧ u.err.cause = 0x12#8)

/-- DYN_HDR stores the counts, clears `cl` and goes on to the code-length code lengths; with bad counts it raises.
That bad counts are stored too, and that `cl` is cleared here, is log entry 13. -/
def Obligations.DynHeaderResults : Prop :=
  ∀ (hlit hdist : BitVec 5) (hclen : BitVec 4) (s : State),
    exec (.dynHdr hlit hdist hclen) s =
        .next
          { s with
            dyn :=
              { s.dyn with
                hlit := hlit.toNat + 257, hdist := hdist.toNat + 1, hclen := hclen.toNat + 4
                cl := List.replicate 19 0#3, clIdx := 0 }
            eng := { s.eng with phase := .pDynClen } }
      ∧ exec (.dynHdrBadCounts hlit hdist hclen) s =
        .next
          (raise .dynCounts
            { s with
              dyn :=
                { s.dyn with hlit := hlit.toNat + 257, hdist := hdist.toNat + 1, hclen := hclen.toNat + 4 } })

/-- Field k of the code-length code lengths is that of symbol `ORDER[k]`; after the last one the code must be
COMPLETE, every other status raises. -/
def Obligations.CodeLengthCodeResults : Prop :=
  ∀ (length : BitVec 3) (s : State),
    (let order := [16, 17, 18, 0, 8, 7, 9, 6, 10, 5, 11, 4, 12, 3, 13, 2, 14, 1, 15]
     let cl := s.dyn.cl.set (order.getD s.dyn.clIdx 0) length
     let t := { s with dyn := { s.dyn with cl := cl, clIdx := s.dyn.clIdx + 1 } }
     let u := { t with tab := { t.tab with clt := build (cl.map BitVec.toNat) } }
     (s.dyn.clIdx + 1 < s.dyn.hclen → exec (.cll length) s = .next t)
      ∧ (s.dyn.hclen ≤ s.dyn.clIdx + 1 → (build (cl.map BitVec.toNat)).status = .complete →
        exec (.cll length) s =
          .next { u with dyn := { u.dyn with lens := [] }, eng := { u.eng with phase := .pDynLens } })
      ∧ (s.dyn.hclen ≤ s.dyn.clIdx + 1 → (build (cl.map BitVec.toNat)).status ≠ .complete →
        exec (.cll length) s = .next (raise .clenCodeBad u)))

/-- A code length is appended; the sequence goes on, or it is complete and the tables are built. -/
def Obligations.CodeLengthAppends : Prop :=
  ∀ (length : BitVec 4) (s : State),
    (let t :=
      { s with
        dyn := { s.dyn with lens := s.dyn.lens ++ [length] }
        eng := { s.eng with phase := .pDynLens } }
     (s.dyn.lens.length + 1 < s.dyn.hlit + s.dyn.hdist → exec (.clLen length) s = .next t)
      ∧ (s.dyn.hlit + s.dyn.hdist ≤ s.dyn.lens.length + 1 → exec (.clLen length) s = .next (buildBlockTables t)))

/-- Symbol 16 as the first code length raises at once. Otherwise, for the three repeat symbols, begun or resumed: the
extra bits are read, then `base + extra` copies of the previous length (symbol 16) or of 0 are appended; past the end
nothing is stored and it raises; at the end the tables are built. If the input ends inside the extra bits, the bits read
are kept and the engine is suspended there, or TRUNCATED is raised. The registers `sym` and `fieldBits` and the phase
`pDynExtra` are the form of the continuation (log entry 12). -/
def Obligations.RepeatAppendsLengths : Prop :=
  (∀ s : State, s.dyn.lens = [] → exec .clRepeatPrev s = .next (raise .repeatNoPrev s)) ∧
  ∀ (i : Instr) (sym base extra : Nat) (v : BitVec 4) (s : State),
    (i = .clRepeatPrev ∧ sym = 16 ∧ base = 3 ∧ extra = 2 ∧ s.dyn.lens.getLast? = some v)
      ∨ (i = .clRepeatZero3 ∧ sym = 17 ∧ base = 3 ∧ extra = 3 ∧ v = 0#4)
      ∨ (i = .clRepeatZero11 ∧ sym = 18 ∧ base = 11 ∧ extra = 7 ∧ v = 0#4) →
    s.rd.fieldBits.length ≤ extra →
    (let k := extra - s.rd.fieldBits.length
     let pend := s.rd.pendingBits
     let t := fun (rd : Reader) (p : Phase) (l : List (BitVec 4)) =>
      { s with
        rd := rd, eng := { s.eng with phase := p, sym := BitVec.ofNat 9 sym }, dyn := { s.dyn with lens := l } }
     (k ≤ pend.length →
      ∃ r : Reader, takeBits k s = some (pend.take k, { s with rd := r }) ∧
        (let rd := { r with fieldBits := [] }
         let rep := base + bitsToNat (s.rd.fieldBits ++ pend.take k)
         let lens := s.dyn.lens ++ List.replicate rep v
         (s.dyn.hlit + s.dyn.hdist < s.dyn.lens.length + rep →
            exec i s = .next (raise .repeatOverrun (t rd .pDynExtra s.dyn.lens)))
          ∧ (s.dyn.lens.length + rep < s.dyn.hlit + s.dyn.hdist → exec i s = .next (t rd .pDynLens lens))
          ∧ (s.dyn.lens.length + rep = s.dyn.hlit + s.dyn.hdist →
            exec i s = .next (buildBlockTables (t rd .pDynLens lens)))))
      ∧ (pend.length < k →
        ∃ r : Reader, takeBits pend.length s = some (pend, { s with rd := r })
          ∧ exec i s = inputEnds (t { r with fieldBits := s.rd.fieldBits ++ pend } .pDynExtra s.dyn.lens)))

/-- The end of a dynamic header: the end-of-block code, then the literal/length code, then the distance code; the
first check that fails raises, and a table is built only once the checks before it have passed. That the tables
already built stay in place when a later check raises is log entry 13. -/
def Obligations.BlockTablesInOrder : Prop :=
  ∀ s : State,
    (let lens := s.dyn.lens.map BitVec.toNat
     let lit := build (lens.take s.dyn.hlit ++ List.replicate (288 - s.dyn.hlit) 0)
     let dist := build ((lens.drop s.dyn.hlit).take s.dyn.hdist ++ List.replicate (32 - s.dyn.hdist) 0)
     let t := { s with tab := { s.tab with lit := lit } }
     let u := { s with tab := { s.tab with lit := lit, dist := dist } }
     let litOk := lit.status = .complete ∨ lit.status = .single1
     let distOk := dist.status = .complete ∨ dist.status = .single1 ∨ dist.status = .empty
     (s.dyn.lens.getD 256 0#4 = 0#4 → buildBlockTables s = raise .noEobCode s)
      ∧ (s.dyn.lens.getD 256 0#4 ≠ 0#4 → ¬ litOk → buildBlockTables s = raise .litlenCodeBad t)
      ∧ (s.dyn.lens.getD 256 0#4 ≠ 0#4 → litOk → ¬ distOk → buildBlockTables s = raise .distCodeBad u)
      ∧ (s.dyn.lens.getD 256 0#4 ≠ 0#4 → litOk → distOk →
        buildBlockTables s = { u with eng := { u.eng with phase := .pSym } }))

/-! ### LZ77 (spec/43_lz77.md, spec/20_memory.md) -/

/-- `Emit`: into the window, counted, and handed to the row stream only within the image. LIT emits its byte. That the
byte waits in `row.pending` for the row stream, where R301 calls RowByte at once, is log entry 12. -/
def Obligations.LiteralEmitsByte : Prop :=
  ∀ (v : Byte) (s : State),
    (let t :=
      { s with
        win :=
          { win := Memory.write s.win.win s.win.wp.toNat v, wp := s.win.wp + 1#15
            hist := min (s.win.hist + 1) 32768 }
        eng := { s.eng with outCount := s.eng.outCount + 1#32, phase := .pSym } }
     (s.row.rowsDone ≠ s.ses.height →
        exec (.lit v) s = .next { t with row := { s.row with pending := some v } })
      ∧ (s.row.rowsDone = s.ses.height → exec (.lit v) s = .next t))

/-- `WinWrite`: the byte at `wp`, every other byte of the window as before, `wp` and `hist` advanced. `WinRead(d)` is
the byte emitted `d` positions before the next one: 1 back is the last byte written, and a write moves every other byte
one position further back. -/
def Obligations.WindowWriteThenRead : Prop :=
  ∀ (v : Byte) (w : Window), Memory.wf 32768 w.win = true →
    (∀ a, Memory.read (winWrite v w).win a = if a = w.wp.toNat then v else Memory.read w.win a)
      ∧ Memory.wf 32768 (winWrite v w).win = true
      ∧ (winWrite v w).wp.toNat = (w.wp.toNat + 1) % 32768
      ∧ (winWrite v w).hist = min (w.hist + 1) 32768
      ∧ winRead 1 (winWrite v w) = v
      ∧ ∀ d, 1 ≤ d → d < 32768 → winRead (d + 1) (winWrite v w) = winRead d w

/-- Every length symbol, begun or resumed: its extra bits are read, `copy_len` is base plus extra, a distance symbol
follows. If the input ends inside the extra bits, the bits read are kept and the engine is suspended in P_LEN_EXTRA, or
TRUNCATED is raised. The registers `sym` and `fieldBits` are part of the form of the continuation (log entry 12). -/
def Obligations.LengthSymbolResults : Prop :=
  ∀ (i : Instr) (sym base extra : Nat) (s : State), (i, sym, base, extra) ∈ lengthRows →
    s.rd.fieldBits.length ≤ extra →
    (let k := extra - s.rd.fieldBits.length
     let pend := s.rd.pendingBits
     (k ≤ pend.length →
      ∃ r : Reader, takeBits k s = some (pend.take k, { s with rd := r }) ∧ r.pendingBits = pend.drop k
        ∧ exec i s =
          .next
            { s with
              rd := { r with fieldBits := [] }
              eng :=
                { s.eng with
                  sym := BitVec.ofNat 9 sym, phase := .pDist
                  copyLen := BitVec.ofNat 9 (base + bitsToNat (s.rd.fieldBits ++ pend.take k)) } })
      ∧ (pend.length < k →
        ∃ r : Reader, takeBits pend.length s = some (pend, { s with rd := r })
          ∧ exec i s =
            inputEnds
              { s with
                rd := { r with fieldBits := s.rd.fieldBits ++ pend }
                eng := { s.eng with sym := BitVec.ofNat 9 sym, phase := .pLenExtra } }))

/-- Every distance symbol, begun or resumed: its extra bits are read, `copy_dist` is base plus extra; beyond `hist` it
raises DIST_TOO_FAR before a byte is copied, else the copy begins. If the input ends inside the extra bits, the bits read
are kept and the engine is suspended in P_DIST_EXTRA, or TRUNCATED is raised. That `copy_dist` stays when the check raises
is log entry 13, the form of the continuation log entry 12. -/
def Obligations.DistanceSymbolResults : Prop :=
  ∀ (i : Instr) (sym base extra : Nat) (s : State), (i, sym, base, extra) ∈ distanceRows →
    s.rd.fieldBits.length ≤ extra →
    (let k := extra - s.rd.fieldBits.length
     let pend := s.rd.pendingBits
     (k ≤ pend.length →
      ∃ r : Reader, takeBits k s = some (pend.take k, { s with rd := r }) ∧ r.pendingBits = pend.drop k
        ∧ (let d := base + bitsToNat (s.rd.fieldBits ++ pend.take k)
           let t := fun (p : Phase) =>
            { s with
              rd := { r with fieldBits := [] }
              eng := { s.eng with sym := BitVec.ofNat 9 sym, phase := p, copyDist := BitVec.ofNat 16 d } }
           (d ≤ s.win.hist → exec i s = .next (t .pCopy))
            ∧ (s.win.hist < d → exec i s = .next (raise .distTooFar (t .pDistExtra)))))
      ∧ (pend.length < k →
        ∃ r : Reader, takeBits pend.length s = some (pend, { s with rd := r })
          ∧ exec i s =
            inputEnds
              { s with
                rd := { r with fieldBits := s.rd.fieldBits ++ pend }
                eng := { s.eng with sym := BitVec.ofNat 9 sym, phase := .pDistExtra } }))

/-- The reserved symbols, by their numbers, raise as soon as they are decoded: no extra bit is read. -/
def Obligations.ReservedSymbolsRaise : Prop :=
  ∀ s : State,
    exec .litlenRsv286 s = .next (raise .litlenSymReserved s)
      ∧ exec .litlenRsv287 s = .next (raise .litlenSymReserved s)
      ∧ exec .distRsv30 s = .next (raise .distSymReserved s)
      ∧ exec .distRsv31 s = .next (raise .distSymReserved s)
      ∧ decodeField .litlenSymbol 286 = .ok .litlenRsv286 ∧ decodeField .litlenSymbol 287 = .ok .litlenRsv287
      ∧ decodeField .distSymbol 30 = .ok .distRsv30 ∧ decodeField .distSymbol 31 = .ok .distRsv31

/-- One iteration of COPY is a step: the byte `copy_dist` back is emitted and `copy_len` decremented; at 0 the next
symbol is decoded. That `copy_len` is decremented in the micro-step that emits is log entry 12. -/
def Obligations.CopyStepResults : Prop :=
  ∀ s : State, engineIdle s = false → s.row.pending = none → s.eng.phase = .pCopy →
    (s.eng.copyLen = 0#9 →
        step s = .next { s with eng := { s.eng with needInput := false, phase := .pSym } })
      ∧ (s.eng.copyLen ≠ 0#9 →
        (let v := Memory.read s.win.win ((s.win.wp.toNat + 32768 - s.eng.copyDist.toNat % 32768) % 32768)
         step s =
          .next
            { s with
              win := winWrite v s.win
              eng :=
                { s.eng with
                  needInput := false, copyLen := s.eng.copyLen - 1#9, outCount := s.eng.outCount + 1#32 }
              row := if s.row.rowsDone = s.ses.height then s.row else { s.row with pending := some v } }))

/-- A copy repeats the last `d` bytes with period `d`, also where it reads bytes it has produced itself. -/
def Obligations.CopyRepeatsWithPeriod : Prop :=
  ∀ (d n j : Nat) (w : Window), Memory.wf 32768 w.win = true → 1 ≤ d → d ≤ 32768 → n ≤ 258 → j < n →
    winRead (n - j) (copyWindow d n w) = winRead (d - j % d) w

/-! ### Row stream and defilter (spec/45_defilter.md) -/

/-- The filter-type byte selects the row's filter and produces no row byte; 5..255 raise FILTER_TYPE_INVALID. -/
def Obligations.FilterTypeByteResults : Prop :=
  ∀ (v : Byte) (s : State), s.row.pending = some v → s.row.col = 0 →
    (let sel := fun (t : FilterType) => { s with row := { s.row with ftype := t, col := 1, pending := none } }
     exec .filtNone s = .next (sel .none) ∧ exec .filtSub s = .next (sel .sub) ∧ exec .filtUp s = .next (sel .up)
      ∧ exec .filtAvg s = .next (sel .avg) ∧ exec .filtPaeth s = .next (sel .paeth)
      ∧ exec (.filtInvalid v) s = .next (raise .filterTypeInvalid s))

/-- Each filter type adds its prediction from the neighbours left (a), up (b) and upper-left (c) modulo 256; the byte
goes to position `col − 1`, and the last byte of a row makes the row ready. -/
def Obligations.FilterReconstructsByte : Prop :=
  ∀ (v : Byte) (s : State), s.row.pending = some v → s.row.col ≠ 0 →
    (let x := s.row.col - 1
     let bpp := s.ses.bpp.toNat
     let a := if bpp ≤ x then Memory.read s.row.cur (x - bpp) else 0#8
     let b := if s.row.rowsDone = 0#32 then 0#8 else Memory.read s.row.prior x
     let c := if bpp ≤ x ∧ s.row.rowsDone ≠ 0#32 then Memory.read s.row.prior (x - bpp) else 0#8
     let put := fun (p : Nat) =>
      { s with
        row :=
          { s.row with
            cur := Memory.write s.row.cur x (BitVec.ofNat 8 ((v.toNat + p) % 256))
            col := if s.row.col + 1 = s.ses.stride then 0 else s.row.col + 1
            rowReady := decide (s.row.col + 1 = s.ses.stride)
            pending := none } }
     exec .filtNone s = .next (put 0)
      ∧ exec .filtSub s = .next (put a.toNat)
      ∧ exec .filtUp s = .next (put b.toNat)
      ∧ exec .filtAvg s = .next (put ((a.toNat + b.toNat) / 2))
      ∧ exec .filtPaeth s = .next (put (paeth a b c).toNat))

/-- The current row is written only by the filter instructions, at position `col − 1` and nowhere else, and not by a
filter-type byte; the prior row is written only by ROW_ACK. -/
def Obligations.RowMemoryFrame : Prop :=
  ∀ (i : Instr) (s t : State), exec i s = .next t →
    ((∀ f, i ≠ filterInstr f) → t.row.cur = s.row.cur)
      ∧ (i ≠ .ctrlRowAck → t.row.prior = s.row.prior)
      ∧ (∀ a, a ≠ s.row.col - 1 → Memory.read t.row.cur a = Memory.read s.row.cur a)
      ∧ (s.row.col = 0 → t.row.cur = s.row.cur)

/-- The Paeth predictor is the candidate closest to `a + b − c`, left before up before upper-left on ties; with
`b = c = 0` it is `a`, with `a = c = 0` it is `b`. -/
def Obligations.PaethPicksClosest : Prop :=
  ∀ a b c : Byte,
    (let dist := fun (p : Byte) => ((a.toNat : Int) + b.toNat - c.toNat - p.toNat).natAbs
     (paeth a b c = a ∨ paeth a b c = b ∨ paeth a b c = c)
      ∧ dist (paeth a b c) ≤ dist a ∧ dist (paeth a b c) ≤ dist b ∧ dist (paeth a b c) ≤ dist c
      ∧ (dist a = dist (paeth a b c) → paeth a b c = a)
      ∧ (dist a ≠ dist (paeth a b c) → dist b = dist (paeth a b c) → paeth a b c = b)
      ∧ paeth a 0#8 0#8 = a ∧ paeth 0#8 b 0#8 = b)

/-- Filtering then defiltering a row is the identity: for every filter type, every row and every prior row, the type byte
and then the bytes `F_t` reconstruct the row, and it becomes ready after the last one. -/
def Obligations.FilterRoundTrip : Prop :=
  ∀ (t : FilterType) (v : Byte) (r : Nat → Byte) (n cap : Nat) (s : State),
    decodeField .rowFilter v.toNat = .ok (filterInstr t) → 1 ≤ n → n ≤ cap →
    s.ses.stride = n + 1 → 1 ≤ s.ses.bpp.toNat → s.row.col = 0 → s.row.rowReady = false → s.row.pending = none →
    Memory.wf cap s.row.cur = true →
    (let q := fun x => if s.row.rowsDone = 0#32 then 0#8 else Memory.read s.row.prior x
     ∃ u, feedRow t (v :: (List.range n).map (filteredByte t s.ses.bpp.toNat q r)) s = .next u
      ∧ (∀ x, x < n → Memory.read u.row.cur x = r x)
      ∧ (∀ x, n ≤ x → Memory.read u.row.cur x = Memory.read s.row.cur x)
      ∧ u =
        { s with
          row := { s.row with cur := u.row.cur, col := 0, ftype := t, rowReady := true, pending := none } })

/-- A finished row stops the engine until it is released: while ROW_READY = 1 no step consumes input, emits a byte or
touches the rows, unless an access releases the row or ends the session. -/
def Obligations.RowStopsEngine : Prop :=
  ∀ (s t : State), s.ses.state = .run → s.row.rowReady = true → step s = .next t →
    (∀ a rest, s.host.queue = a :: rest →
      Instr.ctrlRowAck ∉ s.accessInstrs a ∧ Instr.ctrlStart ∉ s.accessInstrs a ∧ Instr.ctrlAbort ∉ s.accessInstrs a) →
    t.rd.inCount = s.rd.inCount ∧ t.rd.nbits = s.rd.nbits ∧ t.eng.outCount = s.eng.outCount ∧ t.win = s.win
      ∧ t.row.cur = s.row.cur ∧ t.row.prior = s.row.prior ∧ t.row.rowsDone = s.row.rowsDone

/-! ### Host operations (spec/48_host_interface.md) -/

/-- START: the session is cleared, the configuration latched and checked in order; a valid one enters RUN at P_ZHDR.
That the count of bytes taken, the traversal registers and the field register are cleared too is the model's choice
(log entries 7 and 11). -/
def Obligations.StartResult : Prop :=
  ∀ s : State,
    (let w := s.regs.cfgWidth
     let h := s.regs.cfgHeight
     let p := s.regs.cfgBpp
     let n := w.toNat * p.toNat
     let base := fun (st : SessionState) (rb sd : Nat) (e : ErrorRecord) (ph : Phase) =>
      { s with
        ses := { state := st, width := w, height := h, bpp := p, rowbytes := rb, stride := sd }
        rd :=
          { curByte := 0#8, nbits := 0, fifo := [], eoi := false, inCount := 0#32, bytesTaken := 0, fieldBits := [] }
        trav := { code := 0, first := 0, index := 0, len := 1 }
        eng := { s.eng with phase := ph, needInput := false, finalSeen := false, outCount := 0#32 }
        win := { s.win with wp := 0#15, hist := 0 }
        row := { s.row with col := 0, rowsDone := 0#32, rowReady := false, pending := none }
        err := e
        host := { s.host with resp := .written } }
     let fails := fun (c : Cause) =>
      exec .ctrlStart s = .next (base .error 0 0 { kind := c.kind, cause := c.code, bits := 0#4 } .pNone)
     (w = 0#32 ∨ h = 0#32 → fails .cfgZeroDimension)
      ∧ (w ≠ 0#32 → h ≠ 0#32 → ¬ (1 ≤ p.toNat ∧ p.toNat ≤ 4) → fails .cfgBpp)
      ∧ (w ≠ 0#32 → h ≠ 0#32 → 1 ≤ p.toNat → p.toNat ≤ 4 → s.cfg.maxRowBytes < n → fails .cfgRowTooLong)
      ∧ (w ≠ 0#32 → h ≠ 0#32 → 1 ≤ p.toNat → p.toNat ≤ 4 → n ≤ s.cfg.maxRowBytes →
        exec .ctrlStart s =
          .next (base .run n (n + 1) { kind := 0#3, cause := 0#8, bits := 0#4 } .pZhdr)))

/-- ABORT, in every state: IDLE, every register START clears is cleared with the latched configuration, the CFG
registers keep their values, and STATUS reads 0. That the count of bytes taken and the field register are cleared too is the model's choice (log
entries 7 and 11). -/
def Obligations.AbortResult : Prop :=
  ∀ s : State, ∃ t, exec .ctrlAbort s = .next t
    ∧ t.ses = { state := .idle, width := 0#32, height := 0#32, bpp := 0#3, rowbytes := 0, stride := 0 }
    ∧ t.rd =
      { curByte := 0#8, nbits := 0, fifo := [], eoi := false, inCount := 0#32, bytesTaken := 0, fieldBits := [] }
    ∧ t.eng.phase = .pNone ∧ t.eng.needInput = false ∧ t.eng.finalSeen = false ∧ t.eng.outCount = 0#32
    ∧ t.win.wp = 0#15 ∧ t.win.hist = 0
    ∧ t.row.col = 0 ∧ t.row.rowsDone = 0#32 ∧ t.row.rowReady = false ∧ t.row.pending = none
    ∧ t.err = { kind := 0#3, cause := 0#8, bits := 0#4 }
    ∧ t.regs = s.regs ∧ t.cfg = s.cfg ∧ (1 ≤ s.cfg.inFifoDepth → t.status = 0#32) ∧ t.errorWord = 0#32

/-- ROW_ACK: with a row ready in RUN the row becomes the prior row and is counted; otherwise it is ignored. -/
def Obligations.RowAckResult : Prop :=
  ∀ s : State,
    (s.ses.state = .run → s.row.rowReady = true →
      ∃ p : Memory, exec .ctrlRowAck s =
          .next
            { s with
              row := { s.row with prior := p, rowsDone := s.row.rowsDone + 1#32, rowReady := false }
              host := { s.host with resp := .written } }
        ∧ (∀ a, Memory.read p a = if a < s.ses.rowbytes then Memory.read s.row.cur a else Memory.read s.row.prior a))
      ∧ (¬ (s.ses.state = .run ∧ s.row.rowReady = true) →
        exec .ctrlRowAck s = .next { s with host := { s.host with resp := .written } })

/-- EOI: in RUN the end of the input is recorded; otherwise it is ignored. -/
def Obligations.EoiResult : Prop :=
  ∀ s : State,
    (s.ses.state = .run →
        exec .ctrlEoi s =
          .next { s with rd := { s.rd with eoi := true }, host := { s.host with resp := .written } })
      ∧ (s.ses.state ≠ .run → exec .ctrlEoi s = .next { s with host := { s.host with resp := .written } })

/-- IN_DATA: in RUN the byte is queued, or raises IN_OVERFLOW with the FIFO full; otherwise it is discarded. -/
def Obligations.InDataResult : Prop :=
  ∀ (data : Word) (s : State),
    (s.ses.state = .run → s.rd.fifo.length ≠ s.cfg.inFifoDepth →
        exec (.inDataWrite data) s =
          .next
            { s with
              rd := { s.rd with fifo := s.rd.fifo ++ [BitVec.ofNat 8 (data.toNat % 256)] }
              host := { s.host with resp := .written } })
      ∧ (s.ses.state = .run → s.rd.fifo.length = s.cfg.inFifoDepth →
        exec (.inDataWrite data) s =
          .next { raise .inOverflow s with host := { s.host with resp := .written } })
      ∧ (s.ses.state ≠ .run → exec (.inDataWrite data) s = .next { s with host := { s.host with resp := .written } })

/-- CFG writes store, CFG_BPP its bits 2:0, in every state, and the latched configuration is as before; an ignored
write changes no state of the block. -/
def Obligations.RegisterWriteResults : Prop :=
  ∀ (data : Word) (s : State),
    exec (.cfgWidthWrite data) s =
        .next { s with regs := { s.regs with cfgWidth := data }, host := { s.host with resp := .written } }
      ∧ exec (.cfgHeightWrite data) s =
        .next { s with regs := { s.regs with cfgHeight := data }, host := { s.host with resp := .written } }
      ∧ exec (.cfgBppWrite data) s =
        .next
          { s with
            regs := { s.regs with cfgBpp := BitVec.ofNat 3 (data.toNat % 8) }
            host := { s.host with resp := .written } }
      ∧ ∀ (w : AccessWidth) (offset : Nat),
        exec (.ignoredWrite w offset data) s = .next { s with host := { s.host with resp := .written } }

/-- A register read returns the register's value, 0 for CTRL, IN_DATA and the reserved offsets, and changes nothing. -/
def Obligations.RegReadResult : Prop :=
  ∀ s : State,
    (let reads := fun (offset : Nat) (v : Word) =>
      exec (.regRead offset) s = .next { s with host := { s.host with resp := .value v } }
     reads 0x000 0#32 ∧ reads 0x004 s.status ∧ reads 0x008 s.errorWord ∧ reads 0x00C s.regs.cfgWidth
      ∧ reads 0x010 s.regs.cfgHeight ∧ reads 0x014 (BitVec.ofNat 32 s.regs.cfgBpp.toNat) ∧ reads 0x018 0#32
      ∧ reads 0x01C s.row.rowsDone ∧ reads 0x020 s.rd.inCount ∧ reads 0x024 s.eng.outCount
      ∧ reads 0x028 (BitVec.ofNat 32 s.ses.rowbytes) ∧ reads 0x02C (BitVec.ofNat 32 s.cfg.inFifoDepth)
      ∧ reads 0x030 (BitVec.ofNat 32 s.cfg.maxRowBytes)
      ∧ ∀ offset, 0x034 ≤ offset → offset < 0x1000 → reads offset 0#32)

/-- A read of the ROW window while a row is ready returns its bytes little-endian, 0 beyond the row, and changes no
state of the block; while no row is ready it completes with some value of the access width (which one, nothing says).
The value while no row is ready is a free value (log entry 2). -/
def Obligations.RowReadResult : Prop :=
  ∀ (i : Nat) (s : State),
    (let b := fun (j : Nat) => if j < s.ses.rowbytes then (Memory.read s.row.cur j).toNat else 0
     let reads := fun (w : AccessWidth) (v : Nat) =>
      exec (.rowRead w (0x1000 + i)) s =
        .next { s with host := { s.host with resp := .value (BitVec.ofNat 32 v) } }
     (s.row.rowReady = true →
        reads .b1 (b i) ∧ reads .b2 (b i + 256 * b (i + 1))
          ∧ reads .b4 (b i + 256 * b (i + 1) + 65536 * b (i + 2) + 16777216 * b (i + 3)))
      ∧ (s.row.rowReady = false → ∀ w : AccessWidth,
        ∃ v : Word, v.toNat < 256 ^ w.bytes ∧ exec (.rowRead w (0x1000 + i)) s =
          .next { s with host := { s.host with resp := .value v, draws := s.host.draws + 1 } }))

/-- A bus error is the access's response: no state of the block changes. An access of width 1 or 2 below 0x1000 or at
an offset that is not a multiple of its width gets it; an access the block does not decode, below BASE_ADDR or past the
ROW window, gets it where the platform gives one, and is refused where it does not. That a bus error is a next state, and
that an access below BASE_ADDR is one the block does not decode, is log entry 5. -/
def Obligations.BusErrorResult : Prop :=
  ∀ (a : HostAccess) (s : State),
    (a.misaccess = true ∨ s.cfg.undecodedBusError = true →
        exec (.busError a) s = .next { s with host := { s.host with resp := .busError } })
      ∧ (a.misaccess = false → s.cfg.undecodedBusError = false →
        exec (.busError a) s = .refused .platformAccess)
      ∧ (∀ (b : BusAccess) (rest : List BusAccess), engineIdle s = true → s.host.queue = b :: rest →
        s.cfg.baseAddr ≤ b.addr →
        (b.width ≠ .b4 ∧ b.addr - s.cfg.baseAddr < 0x1000 ∨ (b.addr - s.cfg.baseAddr) % b.width.bytes ≠ 0) →
        step s = .next { s with host := { s.host with queue := rest, resp := .busError } })
      ∧ ∀ (b : BusAccess) (rest : List BusAccess), engineIdle s = true → s.host.queue = b :: rest →
        (b.addr < s.cfg.baseAddr ∨
          s.cfg.baseAddr + 0x1000 + s.cfg.rowWinSize ≤ b.addr ∧ (b.addr - s.cfg.baseAddr) % b.width.bytes = 0) →
        step s =
          if s.cfg.undecodedBusError then
            .next { s with host := { s.host with queue := rest, resp := .busError } }
          else .refused .platformAccess

/-- STATUS and ERROR, field by field, and 0 at reset. -/
def Obligations.StatusAndErrorFields : Prop :=
  (∀ c : Config, 1 ≤ c.inFifoDepth → (State.resetOf c).status = 0#32 ∧ (State.resetOf c).errorWord = 0#32) ∧
  ∀ s : State, s.rd.fifo.length < 65536 →
    (let v := s.status.toNat
     v % 4 = (match s.ses.state with | .idle => 0 | .run => 1 | .done => 2 | .error => 3)
      ∧ (v / 4 % 2 = 1 ↔ s.ses.state = .run ∧ s.eng.needInput = true)
      ∧ (v / 8 % 2 = 1 ↔ s.row.rowReady = true)
      ∧ (v / 16 % 2 = 1 ↔ s.rd.eoi = true)
      ∧ (v / 32 % 2 = 1 ↔ s.rd.fifo.length = s.cfg.inFifoDepth)
      ∧ (v / 64 % 2 = 1 ↔ (s.ses.state = .run ∨ s.ses.state = .done) ∧ s.row.rowsDone = s.ses.height)
      ∧ (v / 128 % 2 = 1 ↔ s.eng.finalSeen = true)
      ∧ v / 256 % 256 = 0
      ∧ v / 65536 = s.rd.fifo.length)
      ∧ (let e := s.errorWord.toNat
         e % 8 = s.err.kind.toNat ∧ e / 8 % 32 = 0 ∧ e / 256 % 256 = s.err.cause.toNat
          ∧ e / 65536 % 16 = s.err.bits.toNat ∧ e / 1048576 = 0)

/-! ### The step (spec/00_scope.md R14, spec/20_memory.md R86, R90, spec/48_host_interface.md R455) -/

/-- A step of a busy engine at a field of fixed width, begun or resumed, runs the instruction its bits decode to, on the
state in which those bits are consumed; the zlib header's number is CMF × 256 + FLG of two bytes read CMF first. If the
input ends inside the field, the bits read are kept and the engine is suspended there, or TRUNCATED is raised. That a
step of a busy engine is one micro-step is log entry 6; that CMF and FLG, LEN and NLEN, and the three counts are single
fields of 16, 32 and 14 bits is log entry 12. -/
def Obligations.StepRunsFieldElement : Prop :=
  (∀ (p : Phase) (f : Format) (n : Nat) (i : Instr) (s : State), (p, f, n) ∈ fieldPhases →
    engineIdle s = false → s.row.pending = none → s.eng.phase = p → (p = .pStoredCopy → s.eng.lenRem ≠ 0#16) →
    (let k := n - s.rd.fieldBits.length
     let pend := s.rd.pendingBits
     s.rd.fieldBits.length ≤ n → k ≤ pend.length →
     decodeField f (bitsToNat (s.rd.fieldBits ++ pend.take k)) = .ok i →
      ∃ r : Reader, takeBits k s = some (pend.take k, { s with rd := r }) ∧ r.pendingBits = pend.drop k
        ∧ step s =
          exec i { s with rd := { r with fieldBits := [] }, eng := { s.eng with needInput := false } }))
  ∧ (∀ (i : Instr) (s : State), engineIdle s = false → s.row.pending = none → s.eng.phase = .pZhdr →
    (let k := 16 - s.rd.fieldBits.length
     let pend := s.rd.pendingBits
     let bits := s.rd.fieldBits ++ pend.take k
     s.rd.fieldBits.length ≤ 16 → k ≤ pend.length →
     decodeField .zlibHeader (bitsToNat (bits.take 8) * 256 + bitsToNat (bits.drop 8)) = .ok i →
      ∃ r : Reader, takeBits k s = some (pend.take k, { s with rd := r }) ∧ r.pendingBits = pend.drop k
        ∧ step s =
          exec i { s with rd := { r with fieldBits := [] }, eng := { s.eng with needInput := false } }))
  ∧ ∀ (p : Phase) (f : Format) (n : Nat) (s : State), (p, f, n) ∈ (.pZhdr, .zlibHeader, 16) :: fieldPhases →
    engineIdle s = false → s.row.pending = none → s.eng.phase = p → (p = .pStoredCopy → s.eng.lenRem ≠ 0#16) →
    (let pend := s.rd.pendingBits
     s.rd.fieldBits.length + pend.length < n →
      ∃ r : Reader, takeBits pend.length s = some (pend, { s with rd := r })
        ∧ step s =
          inputEnds
            { s with
              rd := { r with fieldBits := s.rd.fieldBits ++ pend }, eng := { s.eng with needInput := false } })

/-- A step of a busy engine at a Huffman-coded element runs the instruction of the symbol the table decodes, or is the
suspension or the error in which the decoding stops; at the extra bits of a symbol it runs the symbol's instruction
again; at a row byte, the row instruction of the byte (column 0) or of the row's filter. That a step of a busy engine is
one micro-step is log entry 6; that a row byte is one of its own, and that `sym` holds the symbol whose extra bits are
read, is log entry 12. -/
def Obligations.StepRunsCodedElement : Prop :=
  ∀ s : State, engineIdle s = false →
    (let s' := { s with eng := { s.eng with needInput := false } }
     (∀ (p : Phase) (f : Format) (tbl : HuffTable) (v : Nat) (i : Instr) (t : State), (p, f, tbl) ∈ s.codedPhases →
        s.row.pending = none → s.eng.phase = p → decodeSymbol tbl s' = .done v t → decodeField f v = .ok i →
        step s = exec i t)
      ∧ (∀ (p : Phase) (f : Format) (tbl : HuffTable) (t : State), (p, f, tbl) ∈ s.codedPhases →
        s.row.pending = none → s.eng.phase = p → decodeSymbol tbl s' = .stop t → step s = .next t)
      ∧ (∀ (p : Phase) (f : Format) (i : Instr), (p, f) ∈ extraPhases → s.row.pending = none → s.eng.phase = p →
        decodeField f s.eng.sym.toNat = .ok i → step s = exec i s')
      ∧ (∀ (v : Byte) (i : Instr), s.row.pending = some v → s.row.col = 0 → decodeField .rowFilter v.toNat = .ok i →
        step s = exec i s')
      ∧ (∀ v : Byte, s.row.pending = some v → s.row.col ≠ 0 → step s = exec (filterInstr s.row.ftype) s'))

/-- A step of an idle machine performs the host's next access: the instruction its offset decodes to, and the engine's
run, as one step; a bus error is not followed by a run; an access below BASE_ADDR is the platform's; without an access
nothing happens. The queue and the response are the form of the host agent (log entry 6); that an access below BASE_ADDR
is one the block does not decode is log entry 5. -/
def Obligations.StepRunsHostAccess : Prop :=
  ∀ s : State, engineIdle s = true →
    (s.host.queue = [] → step s = .next s)
      ∧ (∀ (a : BusAccess) (rest : List BusAccess) (i : Instr), s.host.queue = a :: rest →
        s.cfg.baseAddr ≤ a.addr → s.accessInstrs a = [i] →
        ((∀ b, i ≠ .busError b) → step s = andThen (exec i s.popAccess) (runEngine exec))
          ∧ (∀ b, i = .busError b → step s = exec i s.popAccess))
      ∧ (∀ (a : BusAccess) (rest : List BusAccess), s.host.queue = a :: rest → a.addr < s.cfg.baseAddr →
        step s =
          if s.cfg.undecodedBusError then
            .next { s with host := { s.host with queue := rest, resp := .busError } }
          else .refused .platformAccess)

/-- A CTRL write: ABORT alone if its bit is set; otherwise START, ROW_ACK and EOI in this order, each followed by its
own RunEngine, within one step; with bits 3:0 all 0 nothing. -/
def Obligations.CtrlCommandsInOrder : Prop :=
  ∀ (s : State) (data : Word) (rest : List BusAccess), engineIdle s = true →
    s.host.queue = s.busWrite 0x000 data :: rest →
    (data.getLsbD 1 = true → step s = command .ctrlAbort s.popAccess)
      ∧ (data.getLsbD 1 = false → data.toNat % 16 ≠ 0 →
        step s =
          andThen (commandIf (data.getLsbD 0) .ctrlStart s.popAccess) fun t =>
            andThen (commandIf (data.getLsbD 3) .ctrlRowAck t) (commandIf (data.getLsbD 2) .ctrlEoi))
      ∧ (data.toNat % 16 = 0 →
        step s = .next { s.popAccess with host := { s.popAccess.host with resp := .written } })

/-- Every RunEngine ends: from every state, a run that does not stop on a number without a row reaches quiescence. The
bound on the micro-steps is log entry 14. -/
def Obligations.RunEngineReachesQuiescence : Prop :=
  ∀ s t : State, runEngine exec s = .next t → engineIdle t = true

/-- No read of any offset has a side effect on the block. -/
def Obligations.ReadsHaveNoSideEffect : Prop :=
  ∀ (s t : State) (a : BusAccess) (rest : List BusAccess), engineIdle s = true → s.host.queue = a :: rest →
    a.op = .read → step s = .next t → t = { s with host := t.host } ∧ t.host.queue = rest

/-! ### Rules of the whole machine -/

/-- The latched configuration is written only by START and ABORT, the CFG registers only by their writes, the
parameters and the host's queue by no instruction. -/
def Obligations.ConfigurationFrame : Prop :=
  ∀ (i : Instr) (s t : State), exec i s = .next t →
    (i ≠ .ctrlStart → i ≠ .ctrlAbort → t.ses = { s.ses with state := t.ses.state })
      ∧ ((∀ d, i ≠ .cfgWidthWrite d) → (∀ d, i ≠ .cfgHeightWrite d) → (∀ d, i ≠ .cfgBppWrite d) → t.regs = s.regs)
      ∧ t.cfg = s.cfg ∧ t.host.queue = s.host.queue

/-- The window is written only by the instructions that emit, and invalidated only by START and ABORT. -/
def Obligations.WindowFrame : Prop :=
  ∀ (i : Instr) (s t : State), exec i s = .next t → (∀ v, i ≠ .lit v) → (∀ v, i ≠ .storedByte v) →
    t.win.win = s.win.win ∧ (i ≠ .ctrlStart → i ≠ .ctrlAbort → t.win = s.win ∧ t.eng.outCount = s.eng.outCount)

/-- RUN is entered only by START, DONE only from RUN with all rows delivered, IDLE only by ABORT. -/
def Obligations.StateTransitions : Prop :=
  ∀ s t : State, s.Inv → s.Quiet → step s = .next t → t.ses.state ≠ s.ses.state →
    (t.ses.state = .run → ∃ a rest, s.host.queue = a :: rest ∧ Instr.ctrlStart ∈ s.accessInstrs a)
      ∧ (t.ses.state = .idle → ∃ a rest, s.host.queue = a :: rest ∧ Instr.ctrlAbort ∈ s.accessInstrs a)
      ∧ (t.ses.state = .done → s.ses.state = .run ∧ t.row.rowsDone = t.ses.height)
      ∧ (t.ses.state = .error → s.ses.state = .run ∨
        ∃ a rest, s.host.queue = a :: rest ∧ Instr.ctrlStart ∈ s.accessInstrs a)

/-- Outside RUN only START and ABORT act on the block: every other access leaves all but the CFG registers as it was.
In ERROR the engine never runs, and the first error is the only one recorded. -/
def Obligations.OutsideRunOnlyStartAbort : Prop :=
  ∀ (s t : State) (a : BusAccess) (rest : List BusAccess), s.ses.state ≠ .run → s.host.queue = a :: rest →
    Instr.ctrlStart ∉ s.accessInstrs a → Instr.ctrlAbort ∉ s.accessInstrs a → step s = .next t →
    t = { s with regs := t.regs, host := t.host }

/-- END_OF_INPUT while the engine waits for a byte raises TRUNCATED at once, with BITS_USED = 8 (0 if no byte was ever
taken), and no byte is lost from the counts. -/
def Obligations.EndOfInputWhileWaiting : Prop :=
  ∀ (s : State) (rest : List BusAccess), s.Inv → s.Quiet → s.ses.state = .run → s.row.rowReady = false →
    s.host.queue = s.busWrite 0x000 0x4#32 :: rest →
    ∃ t, step s = .next t ∧ t.ses.state = .error ∧ t.err.kind = 3#3 ∧ t.err.cause = 0x12#8
      ∧ t.err.bits = (if s.rd.bytesTaken = 0 then 0#4 else 8#4)
      ∧ t.rd.inCount = s.rd.inCount ∧ t.eng.outCount = s.eng.outCount ∧ t.row.rowsDone = s.row.rowsDone
      ∧ t.rd.eoi = true

/-- Between accesses, in RUN with no row waiting, the FIFO is empty and STATUS.NEED_INPUT is 1; with a row waiting
NEED_INPUT is 0. -/
def Obligations.QuietMeansWaiting : Prop :=
  ∀ s : State, s.Inv → s.Quiet → s.ses.state = .run →
    (s.row.rowReady = false → s.rd.fifo = [] ∧ s.needInputFlag = true ∧ s.rd.eoi = false)
      ∧ (s.row.rowReady = true → s.needInputFlag = false)

/-- From a quiescent state every step leads to a quiescent one: no access observes the engine between two of its
micro-steps. -/
def Obligations.StepKeepsQuiescence : Prop :=
  ∀ s t : State, s.Inv → s.Quiet → step s = .next t → t.Quiet

/-- Every step keeps the invariant of the machine; in particular a copy under way reads no farther back than the bytes
emitted in this session. -/
def Obligations.StepKeepsInvariant : Prop :=
  ∀ s t : State, s.Inv → step s = .next t → t.Inv

/-- From a state with the invariant no step faults: no number without a row is ever read; and a step is refused only
for an access the block does not decode, below BASE_ADDR or past the ROW window, where the platform gives no bus error
(log entry 5). -/
def Obligations.StepNeverFaults : Prop :=
  ∀ s : State, s.Inv →
    (∀ r, step s ≠ .fault r)
      ∧ ∀ r, step s = .refused r → s.cfg.undecodedBusError = false ∧ ∃ a rest, s.host.queue = a :: rest
        ∧ (a.addr < s.cfg.baseAddr ∨ s.cfg.baseAddr + 0x1000 + s.cfg.rowWinSize ≤ a.addr)

/-- The state after reset, for every choice of parameters in their ranges, has the invariant and is quiescent. The
parameters of `State.reset` and the registers the spec leaves unspecified are the model's choice (log entries 1 and
3). -/
def Obligations.ResetHasInvariant : Prop :=
  (∀ c : Config, c.wf = true → (State.resetOf c).Inv ∧ (State.resetOf c).Quiet) ∧ State.reset.Inv

/-- What hardware reset leaves in every register the spec gives a reset value, and what every offset reads. -/
def Obligations.ResetValues : Prop :=
  ∀ c : Config, 1 ≤ c.inFifoDepth →
    (let s := State.resetOf c
     s.ses = { state := .idle, width := 0#32, height := 0#32, bpp := 0#3, rowbytes := 0, stride := 0 }
      ∧ s.regs = { cfgWidth := 0#32, cfgHeight := 0#32, cfgBpp := 0#3 }
      ∧ s.rd.fifo = [] ∧ s.rd.eoi = false ∧ s.eng.finalSeen = false ∧ s.row.rowReady = false ∧ s.eng.bfinal = false
      ∧ s.rd.curByte = 0#8 ∧ s.rd.nbits = 0
      ∧ s.rd.inCount = 0#32 ∧ s.eng.outCount = 0#32 ∧ s.row.rowsDone = 0#32
      ∧ s.err = { kind := 0#3, cause := 0#8, bits := 0#4 }
      ∧ s.win.wp = 0#15 ∧ s.win.hist = 0 ∧ s.row.col = 0 ∧ s.eng.phase = .pNone
      ∧ (∀ offset, offset ≠ 0x02C → offset ≠ 0x030 → s.register offset = 0#32)
      ∧ s.register 0x02C = BitVec.ofNat 32 c.inFifoDepth ∧ s.register 0x030 = BitVec.ofNat 32 c.maxRowBytes)
end

