-- ==== Sys2Proof/Laws/Engine.lean ====
section
/-! SUPPORT. What the pieces of a step can do (Machine/Engine.lean), each said once: sequencing, one micro-step, one
turn of RunEngine, the two ways a step goes. -/

namespace Sys2Proof.Machine

theorem andThen_next_iff {o : Result} {f : State → Result} {t : State} :
    andThen o f = .next t ↔ ∃ u, o = .next u ∧ f u = .next t := by
  cases o <;> simp [andThen]

@[simp] theorem andThen_next (s : State) (f : State → Result) : andThen (.next s) f = f s := rfl

/-- A micro-step that answers a state ran the fetched instruction, or showed the state the fetch left. -/
theorem engineStep_next_iff {ex : Instr → State → Result} {s t : State} :
    engineStep ex s = .next t ↔
      (∃ i u, fetch s = .instr i u ∧ ex i u = .next t) ∨ fetch s = .internal t := by
  unfold engineStep
  cases fetch s <;> simp

theorem runSteps_idle {ex : Instr → State → Result} {s : State} (n : Nat) (h : engineIdle s = true) :
    runSteps ex n s = .next s := by
  cases n <;> simp [runSteps, h]

theorem runSteps_busy {ex : Instr → State → Result} {s : State} (n : Nat) (h : engineIdle s = false) :
    runSteps ex (n + 1) s = andThen (engineStep ex s) (runSteps ex n) := by
  simp [runSteps, h]

/-- A step of a busy engine is one micro-step. -/
theorem step_busy {s : State} (h : engineIdle s = false) : step s = engineStep exec s := by
  simp [step, stepWith, h]

/-- A step of an idle machine with an access waiting performs it. -/
theorem step_access {s : State} {a : BusAccess} {rest : List BusAccess} (h : engineIdle s = true)
    (hq : s.host.queue = a :: rest) :
    step s = hostAccess exec a { s with host := { s.host with queue := rest } } := by
  simp [step, stepWith, h, hq]

/-- Outside RUN the engine is idle. -/
theorem engineIdle_of_not_run {s : State} (h : s.ses.state ≠ .run) : engineIdle s = true := by
  simp [engineIdle, h]

end Sys2Proof.Machine
end

