-- ==== Sys2Proof/Laws/Memory.lean ====
section
/-! SUPPORT. The laws of byte memories (Machine/Ops.lean): read after write, a write leaves every other byte alone,
every operation keeps the canonical form, and canonical memories that read alike are equal. -/

namespace Sys2Proof.Machine.Memory

theorem read_cell_append_same (a : Nat) (v : Byte) (m : Memory) (h : read m a = unlisted) :
    read (cell a v ++ m) a = v := by
  unfold cell
  split
  · simp_all
  · simp [read]

theorem read_cell_append_other (a b : Nat) (v : Byte) (m : Memory) (h : a ≠ b) :
    read (cell a v ++ m) b = read m b := by
  unfold cell
  split
  · simp
  · simp [read, h]

theorem wfFrom_mono {lo lo' hi : Nat} {m : Memory} (h : wfFrom lo hi m = true) (hl : lo' ≤ lo) :
    wfFrom lo' hi m = true := by
  cases m with
  | nil => rfl
  | cons c rest =>
    obtain ⟨k, v⟩ := c
    simp only [wfFrom, Bool.and_eq_true, decide_eq_true_eq] at h ⊢
    exact ⟨⟨⟨by omega, h.1.1.2⟩, h.1.2⟩, h.2⟩

/-- Below the lower bound of a canonical memory every byte is unlisted. -/
theorem read_of_lt {lo hi : Nat} {m : Memory} (h : wfFrom lo hi m = true) {a : Nat} (ha : a < lo) :
    read m a = unlisted := by
  induction m generalizing lo with
  | nil => rfl
  | cons c rest ih =>
    obtain ⟨k, v⟩ := c
    simp only [wfFrom, Bool.and_eq_true, decide_eq_true_eq] at h
    have hk : k ≠ a := by omega
    simp only [read, hk, if_false]
    exact ih h.2 (by omega)

theorem wfFrom_cell_append {lo hi a : Nat} {v : Byte} {m : Memory} (hlo : lo ≤ a) (hhi : a < hi)
    (h : wfFrom (a + 1) hi m = true) : wfFrom lo hi (cell a v ++ m) = true := by
  unfold cell
  split
  · exact wfFrom_mono h (by omega)
  · rename_i hv
    simp [wfFrom, hlo, hhi, hv, h]

/-- A write keeps the canonical form. -/
theorem wfFrom_write {lo hi a : Nat} {v : Byte} {m : Memory} (h : wfFrom lo hi m = true) (hlo : lo ≤ a)
    (hhi : a < hi) : wfFrom lo hi (write m a v) = true := by
  induction m generalizing lo with
  | nil =>
    have := wfFrom_cell_append (v := v) hlo hhi (m := []) rfl
    simpa [write] using this
  | cons c rest ih =>
    obtain ⟨k, w⟩ := c
    simp only [wfFrom, Bool.and_eq_true, decide_eq_true_eq] at h
    simp only [write]
    split
    · simp only [wfFrom, Bool.and_eq_true, decide_eq_true_eq]
      exact ⟨h.1, ih h.2 (by omega)⟩
    · split
      · subst_vars
        exact wfFrom_cell_append hlo hhi h.2
      · refine wfFrom_cell_append hlo hhi ?_
        simp only [wfFrom, Bool.and_eq_true, decide_eq_true_eq]
        exact ⟨⟨⟨by omega, h.1.1.2⟩, h.1.2⟩, h.2⟩

theorem wf_write {size a : Nat} {v : Byte} {m : Memory} (h : wf size m = true) (ha : a < size) :
    wf size (write m a v) = true :=
  wfFrom_write h (Nat.zero_le a) ha

/-- A read after a write to the same address gives the byte written. -/
theorem read_write_same {lo hi a : Nat} {v : Byte} {m : Memory} (h : wfFrom lo hi m = true) :
    read (write m a v) a = v := by
  induction m generalizing lo with
  | nil => simpa [write] using read_cell_append_same a v [] rfl
  | cons c rest ih =>
    obtain ⟨k, w⟩ := c
    have hm := h
    simp only [wfFrom, Bool.and_eq_true, decide_eq_true_eq] at h
    simp only [write]
    split
    · have hk : k ≠ a := by omega
      simpa [read, hk] using ih h.2
    · split
      · subst_vars
        exact read_cell_append_same _ _ _ (read_of_lt h.2 (by omega))
      · refine read_cell_append_same _ _ _ ?_
        have hk : k ≠ a := by omega
        simp only [read, hk, if_false]
        exact read_of_lt h.2 (by omega)

/-- A write leaves every other byte alone, in any memory. -/
theorem read_write_other {a b : Nat} {v : Byte} {m : Memory} (h : a ≠ b) : read (write m a v) b = read m b := by
  induction m with
  | nil => simpa [write] using read_cell_append_other a b v [] h
  | cons c rest ih =>
    obtain ⟨k, w⟩ := c
    simp only [write]
    split
    · simp only [read]
      split
      · rfl
      · exact ih
    · split
      · subst_vars
        rw [read_cell_append_other _ _ _ _ h]
        simp [read, h]
      · exact read_cell_append_other _ _ _ _ h

theorem wfFrom_filter_lt {lo hi n : Nat} {m : Memory} (h : wfFrom lo hi m = true) :
    wfFrom lo hi (m.filter fun c => decide (c.1 < n)) = true := by
  induction m generalizing lo with
  | nil => rfl
  | cons c rest ih =>
    obtain ⟨k, v⟩ := c
    simp only [wfFrom, Bool.and_eq_true, decide_eq_true_eq] at h
    simp only [List.filter_cons]
    split
    · simp only [wfFrom, Bool.and_eq_true, decide_eq_true_eq]
      exact ⟨h.1, ih h.2⟩
    · exact wfFrom_mono (ih h.2) (by omega)

theorem wfFrom_filter_ge {lo hi n : Nat} {m : Memory} (h : wfFrom lo hi m = true) :
    wfFrom (max lo n) hi (m.filter fun c => decide (n ≤ c.1)) = true := by
  induction m generalizing lo with
  | nil => rfl
  | cons c rest ih =>
    obtain ⟨k, v⟩ := c
    simp only [wfFrom, Bool.and_eq_true, decide_eq_true_eq] at h
    simp only [List.filter_cons]
    split
    · rename_i hn
      simp only [decide_eq_true_eq] at hn
      simp only [wfFrom, Bool.and_eq_true, decide_eq_true_eq]
      exact ⟨⟨⟨by omega, h.1.1.2⟩, h.1.2⟩, wfFrom_mono (ih h.2) (by omega)⟩
    · exact wfFrom_mono (ih h.2) (by omega)

theorem wfFrom_append {lo hi n : Nat} {m m' : Memory} (h : wfFrom lo hi m = true)
    (hb : ∀ c ∈ m, c.1 < n) (h' : wfFrom (max lo n) hi m' = true) : wfFrom lo hi (m ++ m') = true := by
  induction m generalizing lo with
  | nil => exact wfFrom_mono h' (by omega)
  | cons c rest ih =>
    obtain ⟨k, v⟩ := c
    have hk : k < n := hb (k, v) (by simp)
    simp only [wfFrom, Bool.and_eq_true, decide_eq_true_eq] at h
    simp only [List.cons_append, wfFrom, Bool.and_eq_true, decide_eq_true_eq]
    refine ⟨h.1, ih h.2 (fun c hc => hb c (by simp [hc])) (wfFrom_mono h' (by omega))⟩

/-- The row commit's copy keeps the canonical form. -/
theorem wf_copyBelow {size n : Nat} {src dst : Memory} (hs : wf size src = true) (hd : wf size dst = true) :
    wf size (copyBelow n src dst) = true := by
  refine wfFrom_append (n := n) (wfFrom_filter_lt hs) ?_ (wfFrom_filter_ge hd)
  intro c hc
  simp only [List.mem_filter, decide_eq_true_eq] at hc
  exact hc.2

theorem read_filter_true {p : Host.Cell → Bool} {m : Memory} {a : Nat} (h : ∀ v, p (a, v) = true) :
    read (m.filter p) a = read m a := by
  induction m with
  | nil => rfl
  | cons c rest ih =>
    obtain ⟨k, v⟩ := c
    simp only [List.filter_cons]
    by_cases hk : k = a
    · subst hk
      simp [h, read]
    · split <;> simp [read, hk, ih]

theorem read_filter_false {p : Host.Cell → Bool} {m : Memory} {a : Nat} (h : ∀ v, p (a, v) = false) :
    read (m.filter p) a = unlisted := by
  induction m with
  | nil => rfl
  | cons c rest ih =>
    obtain ⟨k, v⟩ := c
    simp only [List.filter_cons]
    by_cases hk : k = a
    · subst hk
      simp [h, ih]
    · split <;> simp [read, hk, ih]

theorem read_append_of_bound {m m' : Memory} {a : Nat} (h : ∀ c ∈ m, c.1 ≠ a) : read (m ++ m') a = read m' a := by
  induction m with
  | nil => rfl
  | cons c rest ih =>
    obtain ⟨k, v⟩ := c
    have hk : k ≠ a := h (k, v) (by simp)
    simp only [List.cons_append, read, hk, if_false]
    exact ih fun c hc => h c (by simp [hc])

theorem read_append_listed {m m' : Memory} {a : Nat} (h : read m' a = unlisted) :
    read (m ++ m') a = read m a := by
  induction m with
  | nil => simpa [read] using h
  | cons c rest ih =>
    obtain ⟨k, v⟩ := c
    simp only [List.cons_append, read]
    split
    · rfl
    · exact ih

/-- What the row commit's copy leaves: `src` below `n`, `dst` from `n` on. -/
theorem read_copyBelow (n : Nat) (src dst : Memory) (a : Nat) :
    read (copyBelow n src dst) a = if a < n then read src a else read dst a := by
  unfold copyBelow
  split
  · rename_i ha
    rw [read_append_listed, read_filter_true] <;> simp [ha, read_filter_false]
  · rename_i ha
    rw [read_append_of_bound, read_filter_true]
    · intro v
      simpa using Nat.le_of_not_lt ha
    · intro c hc
      simp only [List.mem_filter, decide_eq_true_eq] at hc
      omega

/-- Canonical memories that read alike at every address are equal data. -/
theorem ext_read {lo hi : Nat} {m m' : Memory} (h : wfFrom lo hi m = true) (h' : wfFrom lo hi m' = true)
    (heq : ∀ a, read m a = read m' a) : m = m' := by
  induction m generalizing lo m' with
  | nil =>
    cases m' with
    | nil => rfl
    | cons c rest =>
      obtain ⟨k, v⟩ := c
      simp only [wfFrom, Bool.and_eq_true, decide_eq_true_eq] at h'
      have := heq k
      simp [read] at this
      exact absurd this.symm h'.1.2
  | cons c rest ih =>
    obtain ⟨k, v⟩ := c
    have h0 := h
    have h0' := h'
    simp only [wfFrom, Bool.and_eq_true, decide_eq_true_eq] at h
    cases m' with
    | nil =>
      have := heq k
      simp [read] at this
      exact absurd this h.1.2
    | cons c' rest' =>
      obtain ⟨k', v'⟩ := c'
      simp only [wfFrom, Bool.and_eq_true, decide_eq_true_eq] at h'
      have hkk : k = k' := by
        rcases Nat.lt_trichotomy k k' with hlt | heq' | hgt
        · have h1 := heq k
          have hne : k' ≠ k := by omega
          simp only [read, if_true, hne, if_false] at h1
          rw [read_of_lt h'.2 (by omega)] at h1
          exact absurd h1 h.1.2
        · exact heq'
        · have h1 := heq k'
          have hne : k ≠ k' := by omega
          simp only [read, if_true, hne, if_false] at h1
          rw [read_of_lt h.2 (by omega)] at h1
          exact absurd h1.symm h'.1.2
      subst hkk
      have hv : v = v' := by simpa [read] using heq k
      subst hv
      congr 1
      refine ih h.2 h'.2 fun a => ?_
      by_cases ha : k = a
      · subst ha
        rw [read_of_lt h.2 (by omega), read_of_lt h'.2 (by omega)]
      · simpa [read, ha] using heq a

end Sys2Proof.Machine.Memory
end

