-- ==== Sys2Proof/Laws/PerInstr.lean ====
section
/-! SUPPORT. The family `EncodingFits`: the encoded number of an instruction has no more bits than its format, so that
the decoder takes it (one lemma per constructor of `Instr`). -/

-- one proof after another: side by side they need a thread, and its stack, each
set_option Elab.async false

namespace Sys2Proof.Laws.EncodingFits

/-- The number `encode` gives for an element of a stream fits the format's bits; a host access is no number. -/
def Statement (i : Instr) : Prop :=
  match encode i with
  | .field f v => v < 2 ^ f.bits
  | .access _ => True

theorem zlibHdrBadCm (cmf flg : Byte) : Statement (.zlibHdrBadCm cmf flg) := by
  have := cmf.isLt
  have := flg.isLt
  simp only [Statement, encode, Format.bits]
  omega

theorem zlibHdrBadCinfo (cmf flg : Byte) : Statement (.zlibHdrBadCinfo cmf flg) := by
  have := cmf.isLt
  have := flg.isLt
  simp only [Statement, encode, Format.bits]
  omega

theorem zlibHdrBadFcheck (cmf flg : Byte) : Statement (.zlibHdrBadFcheck cmf flg) := by
  have := cmf.isLt
  have := flg.isLt
  simp only [Statement, encode, Format.bits]
  omega

theorem zlibHdrFdict (cmf flg : Byte) : Statement (.zlibHdrFdict cmf flg) := by
  have := cmf.isLt
  have := flg.isLt
  simp only [Statement, encode, Format.bits]
  omega

theorem zlibHdr (cmf flg : Byte) : Statement (.zlibHdr cmf flg) := by
  have := cmf.isLt
  have := flg.isLt
  simp only [Statement, encode, Format.bits]
  omega

theorem blkStored (bfinal : Bool) : Statement (.blkStored bfinal) := by
  cases bfinal <;> exact Nat.le_of_ble_eq_true rfl

theorem blkFixed (bfinal : Bool) : Statement (.blkFixed bfinal) := by
  cases bfinal <;> exact Nat.le_of_ble_eq_true rfl

theorem blkDynamic (bfinal : Bool) : Statement (.blkDynamic bfinal) := by
  cases bfinal <;> exact Nat.le_of_ble_eq_true rfl

theorem blkReserved (bfinal : Bool) : Statement (.blkReserved bfinal) := by
  cases bfinal <;> exact Nat.le_of_ble_eq_true rfl

theorem storedHdr (len nlen : BitVec 16) : Statement (.storedHdr len nlen) := by
  have := len.isLt
  have := nlen.isLt
  simp only [Statement, encode, Format.bits]
  omega

theorem storedHdrBadNlen (len nlen : BitVec 16) : Statement (.storedHdrBadNlen len nlen) := by
  have := len.isLt
  have := nlen.isLt
  simp only [Statement, encode, Format.bits]
  omega

theorem storedByte (v : Byte) : Statement (.storedByte v) := by
  have := v.isLt
  simpa [Statement, encode, Format.bits] using this

theorem dynHdr (hlit hdist : BitVec 5) (hclen : BitVec 4) : Statement (.dynHdr hlit hdist hclen) := by
  have := hlit.isLt
  have := hdist.isLt
  have := hclen.isLt
  simp only [Statement, encode, Format.bits]
  omega

theorem dynHdrBadCounts (hlit hdist : BitVec 5) (hclen : BitVec 4) : Statement (.dynHdrBadCounts hlit hdist hclen) := by
  have := hlit.isLt
  have := hdist.isLt
  have := hclen.isLt
  simp only [Statement, encode, Format.bits]
  omega

theorem cll (length : BitVec 3) : Statement (.cll length) := by
  have := length.isLt
  simpa [Statement, encode, Format.bits] using this

theorem clLen (length : BitVec 4) : Statement (.clLen length) := by
  have := length.isLt
  simp only [Statement, encode, Format.bits]
  omega

theorem clRepeatPrev : Statement .clRepeatPrev :=
  Nat.le_of_ble_eq_true rfl

theorem clRepeatZero3 : Statement .clRepeatZero3 :=
  Nat.le_of_ble_eq_true rfl

theorem clRepeatZero11 : Statement .clRepeatZero11 :=
  Nat.le_of_ble_eq_true rfl

theorem lit (v : Byte) : Statement (.lit v) := by
  have := v.isLt
  simp only [Statement, encode, Format.bits]
  omega

theorem eob : Statement .eob :=
  Nat.le_of_ble_eq_true rfl

theorem len257 : Statement .len257 :=
  Nat.le_of_ble_eq_true rfl

theorem len258 : Statement .len258 :=
  Nat.le_of_ble_eq_true rfl

theorem len259 : Statement .len259 :=
  Nat.le_of_ble_eq_true rfl

theorem len260 : Statement .len260 :=
  Nat.le_of_ble_eq_true rfl

theorem len261 : Statement .len261 :=
  Nat.le_of_ble_eq_true rfl

theorem len262 : Statement .len262 :=
  Nat.le_of_ble_eq_true rfl

theorem len263 : Statement .len263 :=
  Nat.le_of_ble_eq_true rfl

theorem len264 : Statement .len264 :=
  Nat.le_of_ble_eq_true rfl

theorem len265 : Statement .len265 :=
  Nat.le_of_ble_eq_true rfl

theorem len266 : Statement .len266 :=
  Nat.le_of_ble_eq_true rfl

theorem len267 : Statement .len267 :=
  Nat.le_of_ble_eq_true rfl

theorem len268 : Statement .len268 :=
  Nat.le_of_ble_eq_true rfl

theorem len269 : Statement .len269 :=
  Nat.le_of_ble_eq_true rfl

theorem len270 : Statement .len270 :=
  Nat.le_of_ble_eq_true rfl

theorem len271 : Statement .len271 :=
  Nat.le_of_ble_eq_true rfl

theorem len272 : Statement .len272 :=
  Nat.le_of_ble_eq_true rfl

theorem len273 : Statement .len273 :=
  Nat.le_of_ble_eq_true rfl

theorem len274 : Statement .len274 :=
  Nat.le_of_ble_eq_true rfl

theorem len275 : Statement .len275 :=
  Nat.le_of_ble_eq_true rfl

theorem len276 : Statement .len276 :=
  Nat.le_of_ble_eq_true rfl

theorem len277 : Statement .len277 :=
  Nat.le_of_ble_eq_true rfl

theorem len278 : Statement .len278 :=
  Nat.le_of_ble_eq_true rfl

theorem len279 : Statement .len279 :=
  Nat.le_of_ble_eq_true rfl

theorem len280 : Statement .len280 :=
  Nat.le_of_ble_eq_true rfl

theorem len281 : Statement .len281 :=
  Nat.le_of_ble_eq_true rfl

theorem len282 : Statement .len282 :=
  Nat.le_of_ble_eq_true rfl

theorem len283 : Statement .len283 :=
  Nat.le_of_ble_eq_true rfl

theorem len284 : Statement .len284 :=
  Nat.le_of_ble_eq_true rfl

theorem len285 : Statement .len285 :=
  Nat.le_of_ble_eq_true rfl

theorem litlenRsv286 : Statement .litlenRsv286 :=
  Nat.le_of_ble_eq_true rfl

theorem litlenRsv287 : Statement .litlenRsv287 :=
  Nat.le_of_ble_eq_true rfl

theorem dist0 : Statement .dist0 :=
  Nat.le_of_ble_eq_true rfl

theorem dist1 : Statement .dist1 :=
  Nat.le_of_ble_eq_true rfl

theorem dist2 : Statement .dist2 :=
  Nat.le_of_ble_eq_true rfl

theorem dist3 : Statement .dist3 :=
  Nat.le_of_ble_eq_true rfl

theorem dist4 : Statement .dist4 :=
  Nat.le_of_ble_eq_true rfl

theorem dist5 : Statement .dist5 :=
  Nat.le_of_ble_eq_true rfl

theorem dist6 : Statement .dist6 :=
  Nat.le_of_ble_eq_true rfl

theorem dist7 : Statement .dist7 :=
  Nat.le_of_ble_eq_true rfl

theorem dist8 : Statement .dist8 :=
  Nat.le_of_ble_eq_true rfl

theorem dist9 : Statement .dist9 :=
  Nat.le_of_ble_eq_true rfl

theorem dist10 : Statement .dist10 :=
  Nat.le_of_ble_eq_true rfl

theorem dist11 : Statement .dist11 :=
  Nat.le_of_ble_eq_true rfl

theorem dist12 : Statement .dist12 :=
  Nat.le_of_ble_eq_true rfl

theorem dist13 : Statement .dist13 :=
  Nat.le_of_ble_eq_true rfl

theorem dist14 : Statement .dist14 :=
  Nat.le_of_ble_eq_true rfl

theorem dist15 : Statement .dist15 :=
  Nat.le_of_ble_eq_true rfl

theorem dist16 : Statement .dist16 :=
  Nat.le_of_ble_eq_true rfl

theorem dist17 : Statement .dist17 :=
  Nat.le_of_ble_eq_true rfl

theorem dist18 : Statement .dist18 :=
  Nat.le_of_ble_eq_true rfl

theorem dist19 : Statement .dist19 :=
  Nat.le_of_ble_eq_true rfl

theorem dist20 : Statement .dist20 :=
  Nat.le_of_ble_eq_true rfl

theorem dist21 : Statement .dist21 :=
  Nat.le_of_ble_eq_true rfl

theorem dist22 : Statement .dist22 :=
  Nat.le_of_ble_eq_true rfl

theorem dist23 : Statement .dist23 :=
  Nat.le_of_ble_eq_true rfl

theorem dist24 : Statement .dist24 :=
  Nat.le_of_ble_eq_true rfl

theorem dist25 : Statement .dist25 :=
  Nat.le_of_ble_eq_true rfl

theorem dist26 : Statement .dist26 :=
  Nat.le_of_ble_eq_true rfl

theorem dist27 : Statement .dist27 :=
  Nat.le_of_ble_eq_true rfl

theorem dist28 : Statement .dist28 :=
  Nat.le_of_ble_eq_true rfl

theorem dist29 : Statement .dist29 :=
  Nat.le_of_ble_eq_true rfl

theorem distRsv30 : Statement .distRsv30 :=
  Nat.le_of_ble_eq_true rfl

theorem distRsv31 : Statement .distRsv31 :=
  Nat.le_of_ble_eq_true rfl

theorem filtNone : Statement .filtNone :=
  Nat.le_of_ble_eq_true rfl

theorem filtSub : Statement .filtSub :=
  Nat.le_of_ble_eq_true rfl

theorem filtUp : Statement .filtUp :=
  Nat.le_of_ble_eq_true rfl

theorem filtAvg : Statement .filtAvg :=
  Nat.le_of_ble_eq_true rfl

theorem filtPaeth : Statement .filtPaeth :=
  Nat.le_of_ble_eq_true rfl

theorem filtInvalid (v : Byte) : Statement (.filtInvalid v) := by
  have := v.isLt
  simpa [Statement, encode, Format.bits] using this

theorem ctrlAbort : Statement .ctrlAbort := trivial

theorem ctrlStart : Statement .ctrlStart := trivial

theorem ctrlRowAck : Statement .ctrlRowAck := trivial

theorem ctrlEoi : Statement .ctrlEoi := trivial

theorem inDataWrite (data : Word) : Statement (.inDataWrite data) := trivial

theorem cfgWidthWrite (data : Word) : Statement (.cfgWidthWrite data) := trivial

theorem cfgHeightWrite (data : Word) : Statement (.cfgHeightWrite data) := trivial

theorem cfgBppWrite (data : Word) : Statement (.cfgBppWrite data) := trivial

theorem regRead (offset : Nat) : Statement (.regRead offset) := trivial

theorem rowRead (width : AccessWidth) (offset : Nat) : Statement (.rowRead width offset) := trivial

theorem ignoredWrite (width : AccessWidth) (offset : Nat) (data : Word) : Statement (.ignoredWrite width offset data) := trivial

theorem busError (a : HostAccess) : Statement (.busError a) := trivial

end Sys2Proof.Laws.EncodingFits
end

