-- ==== Sys2Proof/Laws/Reads.lean ====
section
/-! SUPPORT. What one `ReadBit` can do (Machine/Operands.lean), said once: it completes and moves one bit from the
unread input, or it stops with the input at its end. -/

namespace Sys2Proof.Machine

theorem natBits_succ (n v : Nat) : natBits (n + 1) v = (v % 2 == 1) :: natBits n (v / 2) := rfl

theorem natBits_length (n v : Nat) : (natBits n v).length = n := by
  induction n generalizing v with
  | zero => rfl
  | succ n ih => simp [natBits, ih]

theorem getLsbD_zero_eq (b : Byte) : b.getLsbD 0 = (b.toNat % 2 == 1) := by
  rw [BitVec.getLsbD, Nat.testBit_zero]
  rcases Nat.mod_two_eq_zero_or_one b.toNat with h | h <;> simp [h]

theorem toNat_shift_one (b : Byte) : (b >>> 1).toNat = b.toNat / 2 := by
  simp [Nat.shiftRight_eq_div_pow]

/-- A completed `ReadBit`: only the reader changes, and the bit is the first of the unread ones. -/
theorem readBit_done {s t : State} {b : Bool} (h : readBit s = .done b t) :
    t = { s with rd := t.rd } ∧ s.rd.pendingBits = b :: t.rd.pendingBits
      ∧ t.rd.fieldBits = s.rd.fieldBits ∧ t.rd.eoi = s.rd.eoi := by
  unfold readBit at h
  split at h
  · rename_i hn
    split at h
    · split at h <;> cases h
    · rename_i b' rest hf
      cases h
      refine ⟨rfl, ?_, rfl, rfl⟩
      simp only [Reader.pendingBits, hn, hf, Reader.takeByte, natBits, List.nil_append, List.flatMap_cons,
        byteBits, natBits_succ, getLsbD_zero_eq, toNat_shift_one, List.cons_append]
  · rename_i hn
    cases h
    refine ⟨rfl, ?_, rfl, rfl⟩
    obtain ⟨n, hn'⟩ := Nat.exists_eq_succ_of_ne_zero hn
    simp only [Reader.pendingBits, hn', Nat.succ_eq_add_one, Nat.add_sub_cancel, natBits_succ, getLsbD_zero_eq,
      toNat_shift_one, List.cons_append]

/-- A completed `ReadBit` moves the input bit position on by one, and keeps what it rests on: no more bits are held than
were taken, and `in_count` is the number of bytes taken modulo 2^32 (spec/40_bit_reader.md R204). -/
theorem readBit_bitPosition {s t : State} {b : Bool} (h : readBit s = .done b t)
    (hn : s.rd.nbits ≤ 8 * s.rd.bytesTaken) :
    t.rd.bitPosition = s.rd.bitPosition + 1 ∧ t.rd.nbits ≤ 8 * t.rd.bytesTaken
      ∧ (s.rd.inCount = BitVec.ofNat 32 s.rd.bytesTaken → t.rd.inCount = BitVec.ofNat 32 t.rd.bytesTaken) := by
  unfold readBit at h
  split at h
  · split at h
    · split at h <;> cases h
    · cases h
      simp only [Reader.bitPosition, Reader.takeByte]
      exact ⟨by omega, by omega, fun hc => by rw [hc, BitVec.ofNat_add]⟩
  · cases h
    simp only [Reader.bitPosition]
    exact ⟨by omega, by omega, id⟩

/-- The alignment moves the input bit position to the next multiple of 8 (spec/40_bit_reader.md R203, R204). -/
theorem alignToByte_bitPosition (s : State) (hn : s.rd.nbits ≤ 8 * s.rd.bytesTaken) :
    (alignToByte s).rd.bitPosition = s.rd.bitPosition + s.rd.nbits
      ∧ (alignToByte s).rd.bitPosition = 8 * s.rd.bytesTaken := by
  simp only [alignToByte, Reader.bitPosition]
  omega

/-- A `ReadBit` that stops: no bit is left; TRUNCATED after END_OF_INPUT, else the engine suspends. -/
theorem readBit_stop {s t : State} (h : readBit s = .stop t) :
    s.rd.nbits = 0 ∧ s.rd.fifo = [] ∧
      t = if s.rd.eoi then raise .truncated s else { s with eng := { s.eng with needInput := true } } := by
  unfold readBit at h
  split at h
  · rename_i hn
    split at h
    · rename_i hf
      refine ⟨hn, hf, ?_⟩
      split at h <;> cases h <;> simp_all
    · cases h
  · cases h

/-- While a bit is left, `ReadBit` completes. -/
theorem readBit_of_pending {s : State} {b : Bool} {bs : List Bool} (h : s.rd.pendingBits = b :: bs) :
    ∃ t, readBit s = .done b t := by
  rcases hr : readBit s with ⟨b', t⟩ | t
  · have := (readBit_done hr).2.1
    rw [h] at this
    cases this
    exact ⟨t, rfl⟩
  · obtain ⟨hn, hf, -⟩ := readBit_stop hr
    simp [Reader.pendingBits, hn, hf, natBits] at h

/-- One more bit of a field: the loop of `ReadBits` (spec/40_bit_reader.md R202). -/
theorem readFieldLoop_succ (k : Nat) (s : State) :
    readFieldLoop (k + 1) s =
      match readBit s with
      | .stop t => .stop t
      | .done b t => readFieldLoop k { t with rd := { t.rd with fieldBits := t.rd.fieldBits ++ [b] } } := rfl

/-- One more iteration of `Decode` (spec/42_huffman.md R268). -/
theorem decodeLoop_succ (t : HuffTable) (k : Nat) (s : State) :
    decodeLoop t (k + 1) s =
      match readBit s with
      | .stop u => .stop u
      | .done b u =>
        if u.trav.code + b.toNat < u.trav.first + t.count.getD u.trav.len 0 then
          .done (t.symbol.getD (u.trav.index + (u.trav.code + b.toNat - u.trav.first)) noSymbol)
            { u with trav := Traversal.fresh }
        else
          decodeLoop t k
            { u with
              trav :=
                { code := (u.trav.code + b.toNat) * 2, first := (u.trav.first + t.count.getD u.trav.len 0) * 2,
                  index := u.trav.index + t.count.getD u.trav.len 0, len := u.trav.len + 1 } } := rfl

end Sys2Proof.Machine
end

