-- ==== Sys2Proof/Laws/Safety.lean ====
section
/-! SUPPORT. The invariant and quiescence say nothing about the host's fields, so that they hold whatever the host does
next. -/

namespace Sys2Proof.Machine

theorem State.Inv.withHost {s : State} (h : s.Inv) (p : HostPort) : ({ s with host := p } : State).Inv where
  cfgOk := h.cfgOk
  winOk := h.winOk
  histOk := h.histOk
  sessionOk := h.sessionOk
  copyOk := h.copyOk
  curOk := h.curOk
  priorOk := h.priorOk
  bitsOk := h.bitsOk
  fifoOk := h.fifoOk
  takenOk := h.takenOk
  fieldOk := h.fieldOk
  dynOk := h.dynOk
  contOk := h.contOk
  outsideRun := h.outsideRun
  runConfig := h.runConfig
  runRow := h.runRow
  rowOk := h.rowOk
  doneOk := h.doneOk
  errorOk := h.errorOk

theorem State.Quiet.withHost {s : State} (h : s.Quiet) (p : HostPort) : ({ s with host := p } : State).Quiet where
  idle := h.idle
  needOk := h.needOk

end Sys2Proof.Machine
end

