-- ==== Sys2Proof/Laws/State.lean ====
section
/-! SUPPORT. One lemma per field of the state and per named update of it, each true by `rfl`: no proof unfolds an
update to read a field after it. -/

-- one proof after another: side by side they need a thread, and its stack, each
set_option Elab.async false

namespace Sys2Proof.Machine

/-! ### `respond` -/

@[simp] theorem respond_cfg (r : HostResponse) (s : State) :
    (respond r s).cfg = s.cfg := rfl
@[simp] theorem respond_regs (r : HostResponse) (s : State) :
    (respond r s).regs = s.regs := rfl
@[simp] theorem respond_ses (r : HostResponse) (s : State) :
    (respond r s).ses = s.ses := rfl
@[simp] theorem respond_rd (r : HostResponse) (s : State) :
    (respond r s).rd = s.rd := rfl
@[simp] theorem respond_trav (r : HostResponse) (s : State) :
    (respond r s).trav = s.trav := rfl
@[simp] theorem respond_eng (r : HostResponse) (s : State) :
    (respond r s).eng = s.eng := rfl
@[simp] theorem respond_dyn (r : HostResponse) (s : State) :
    (respond r s).dyn = s.dyn := rfl
@[simp] theorem respond_tab (r : HostResponse) (s : State) :
    (respond r s).tab = s.tab := rfl
@[simp] theorem respond_win (r : HostResponse) (s : State) :
    (respond r s).win = s.win := rfl
@[simp] theorem respond_row (r : HostResponse) (s : State) :
    (respond r s).row = s.row := rfl
@[simp] theorem respond_err (r : HostResponse) (s : State) :
    (respond r s).err = s.err := rfl
@[simp] theorem respond_host (r : HostResponse) (s : State) :
    (respond r s).host = { s.host with resp := r } := rfl

/-! ### `raise` -/

@[simp] theorem raise_cfg (c : Cause) (s : State) :
    (raise c s).cfg = s.cfg := rfl
@[simp] theorem raise_regs (c : Cause) (s : State) :
    (raise c s).regs = s.regs := rfl
@[simp] theorem raise_ses (c : Cause) (s : State) :
    (raise c s).ses = { s.ses with state := .error } := rfl
@[simp] theorem raise_rd (c : Cause) (s : State) :
    (raise c s).rd = { s.rd with fifo := [] } := rfl
@[simp] theorem raise_trav (c : Cause) (s : State) :
    (raise c s).trav = s.trav := rfl
@[simp] theorem raise_eng (c : Cause) (s : State) :
    (raise c s).eng = { s.eng with phase := .pNone, needInput := false } := rfl
@[simp] theorem raise_dyn (c : Cause) (s : State) :
    (raise c s).dyn = s.dyn := rfl
@[simp] theorem raise_tab (c : Cause) (s : State) :
    (raise c s).tab = s.tab := rfl
@[simp] theorem raise_win (c : Cause) (s : State) :
    (raise c s).win = s.win := rfl
@[simp] theorem raise_row (c : Cause) (s : State) :
    (raise c s).row = { s.row with rowReady := false, pending := none } := rfl
@[simp] theorem raise_err (c : Cause) (s : State) :
    (raise c s).err = { kind := c.kind, cause := c.code, bits := s.rd.bitsUsed } := rfl
@[simp] theorem raise_host (c : Cause) (s : State) :
    (raise c s).host = s.host := rfl

/-! ### `clearSession` -/

@[simp] theorem clearSession_cfg (s : State) :
    (clearSession s).cfg = s.cfg := rfl
@[simp] theorem clearSession_regs (s : State) :
    (clearSession s).regs = s.regs := rfl
@[simp] theorem clearSession_ses (s : State) :
    (clearSession s).ses = { s.ses with rowbytes := 0, stride := 0 } := rfl
@[simp] theorem clearSession_rd (s : State) :
    (clearSession s).rd = { curByte := 0#8, nbits := 0, fifo := [], eoi := false, inCount := 0#32, bytesTaken := 0, fieldBits := [] } := rfl
@[simp] theorem clearSession_trav (s : State) :
    (clearSession s).trav = { code := 0, first := 0, index := 0, len := 1 } := rfl
@[simp] theorem clearSession_eng (s : State) :
    (clearSession s).eng = { s.eng with phase := .pNone, needInput := false, finalSeen := false, outCount := 0#32 } := rfl
@[simp] theorem clearSession_dyn (s : State) :
    (clearSession s).dyn = s.dyn := rfl
@[simp] theorem clearSession_tab (s : State) :
    (clearSession s).tab = s.tab := rfl
@[simp] theorem clearSession_win (s : State) :
    (clearSession s).win = { s.win with wp := 0#15, hist := 0 } := rfl
@[simp] theorem clearSession_row (s : State) :
    (clearSession s).row = { s.row with col := 0, rowsDone := 0#32, rowReady := false, pending := none } := rfl
@[simp] theorem clearSession_err (s : State) :
    (clearSession s).err = { kind := 0#3, cause := 0#8, bits := 0#4 } := rfl
@[simp] theorem clearSession_host (s : State) :
    (clearSession s).host = s.host := rfl

/-! ### `alignToByte` -/

@[simp] theorem alignToByte_cfg (s : State) :
    (alignToByte s).cfg = s.cfg := rfl
@[simp] theorem alignToByte_regs (s : State) :
    (alignToByte s).regs = s.regs := rfl
@[simp] theorem alignToByte_ses (s : State) :
    (alignToByte s).ses = s.ses := rfl
@[simp] theorem alignToByte_rd (s : State) :
    (alignToByte s).rd = { s.rd with curByte := 0#8, nbits := 0 } := rfl
@[simp] theorem alignToByte_trav (s : State) :
    (alignToByte s).trav = s.trav := rfl
@[simp] theorem alignToByte_eng (s : State) :
    (alignToByte s).eng = s.eng := rfl
@[simp] theorem alignToByte_dyn (s : State) :
    (alignToByte s).dyn = s.dyn := rfl
@[simp] theorem alignToByte_tab (s : State) :
    (alignToByte s).tab = s.tab := rfl
@[simp] theorem alignToByte_win (s : State) :
    (alignToByte s).win = s.win := rfl
@[simp] theorem alignToByte_row (s : State) :
    (alignToByte s).row = s.row := rfl
@[simp] theorem alignToByte_err (s : State) :
    (alignToByte s).err = s.err := rfl
@[simp] theorem alignToByte_host (s : State) :
    (alignToByte s).host = s.host := rfl

/-! ### `emit` -/

@[simp] theorem emit_cfg (v : Byte) (s : State) :
    (emit v s).cfg = s.cfg := rfl
@[simp] theorem emit_regs (v : Byte) (s : State) :
    (emit v s).regs = s.regs := rfl
@[simp] theorem emit_ses (v : Byte) (s : State) :
    (emit v s).ses = s.ses := rfl
@[simp] theorem emit_rd (v : Byte) (s : State) :
    (emit v s).rd = s.rd := rfl
@[simp] theorem emit_trav (v : Byte) (s : State) :
    (emit v s).trav = s.trav := rfl
@[simp] theorem emit_eng (v : Byte) (s : State) :
    (emit v s).eng = { s.eng with outCount := s.eng.outCount + 1#32 } := rfl
@[simp] theorem emit_dyn (v : Byte) (s : State) :
    (emit v s).dyn = s.dyn := rfl
@[simp] theorem emit_tab (v : Byte) (s : State) :
    (emit v s).tab = s.tab := rfl
@[simp] theorem emit_win (v : Byte) (s : State) :
    (emit v s).win = winWrite v s.win := rfl
@[simp] theorem emit_row (v : Byte) (s : State) :
    (emit v s).row = if s.row.rowsDone = s.ses.height then s.row else { s.row with pending := some v } := rfl
@[simp] theorem emit_err (v : Byte) (s : State) :
    (emit v s).err = s.err := rfl
@[simp] theorem emit_host (v : Byte) (s : State) :
    (emit v s).host = s.host := rfl

/-! ### `blockHeader` -/

@[simp] theorem blockHeader_cfg (f : Bool) (b : BitVec 2) (p : Phase) (s : State) :
    (blockHeader f b p s).cfg = s.cfg := rfl
@[simp] theorem blockHeader_regs (f : Bool) (b : BitVec 2) (p : Phase) (s : State) :
    (blockHeader f b p s).regs = s.regs := rfl
@[simp] theorem blockHeader_ses (f : Bool) (b : BitVec 2) (p : Phase) (s : State) :
    (blockHeader f b p s).ses = s.ses := rfl
@[simp] theorem blockHeader_rd (f : Bool) (b : BitVec 2) (p : Phase) (s : State) :
    (blockHeader f b p s).rd = s.rd := rfl
@[simp] theorem blockHeader_trav (f : Bool) (b : BitVec 2) (p : Phase) (s : State) :
    (blockHeader f b p s).trav = s.trav := rfl
@[simp] theorem blockHeader_eng (f : Bool) (b : BitVec 2) (p : Phase) (s : State) :
    (blockHeader f b p s).eng = { s.eng with bfinal := f, btype := b, finalSeen := s.eng.finalSeen || f, phase := p } := rfl
@[simp] theorem blockHeader_dyn (f : Bool) (b : BitVec 2) (p : Phase) (s : State) :
    (blockHeader f b p s).dyn = s.dyn := rfl
@[simp] theorem blockHeader_tab (f : Bool) (b : BitVec 2) (p : Phase) (s : State) :
    (blockHeader f b p s).tab = s.tab := rfl
@[simp] theorem blockHeader_win (f : Bool) (b : BitVec 2) (p : Phase) (s : State) :
    (blockHeader f b p s).win = s.win := rfl
@[simp] theorem blockHeader_row (f : Bool) (b : BitVec 2) (p : Phase) (s : State) :
    (blockHeader f b p s).row = s.row := rfl
@[simp] theorem blockHeader_err (f : Bool) (b : BitVec 2) (p : Phase) (s : State) :
    (blockHeader f b p s).err = s.err := rfl
@[simp] theorem blockHeader_host (f : Bool) (b : BitVec 2) (p : Phase) (s : State) :
    (blockHeader f b p s).host = s.host := rfl

/-! ### `setCounts` -/

@[simp] theorem setCounts_cfg (a b : BitVec 5) (c : BitVec 4) (s : State) :
    (setCounts a b c s).cfg = s.cfg := rfl
@[simp] theorem setCounts_regs (a b : BitVec 5) (c : BitVec 4) (s : State) :
    (setCounts a b c s).regs = s.regs := rfl
@[simp] theorem setCounts_ses (a b : BitVec 5) (c : BitVec 4) (s : State) :
    (setCounts a b c s).ses = s.ses := rfl
@[simp] theorem setCounts_rd (a b : BitVec 5) (c : BitVec 4) (s : State) :
    (setCounts a b c s).rd = s.rd := rfl
@[simp] theorem setCounts_trav (a b : BitVec 5) (c : BitVec 4) (s : State) :
    (setCounts a b c s).trav = s.trav := rfl
@[simp] theorem setCounts_eng (a b : BitVec 5) (c : BitVec 4) (s : State) :
    (setCounts a b c s).eng = s.eng := rfl
@[simp] theorem setCounts_dyn (a b : BitVec 5) (c : BitVec 4) (s : State) :
    (setCounts a b c s).dyn = { s.dyn with hlit := a.toNat + 257, hdist := b.toNat + 1, hclen := c.toNat + 4 } := rfl
@[simp] theorem setCounts_tab (a b : BitVec 5) (c : BitVec 4) (s : State) :
    (setCounts a b c s).tab = s.tab := rfl
@[simp] theorem setCounts_win (a b : BitVec 5) (c : BitVec 4) (s : State) :
    (setCounts a b c s).win = s.win := rfl
@[simp] theorem setCounts_row (a b : BitVec 5) (c : BitVec 4) (s : State) :
    (setCounts a b c s).row = s.row := rfl
@[simp] theorem setCounts_err (a b : BitVec 5) (c : BitVec 4) (s : State) :
    (setCounts a b c s).err = s.err := rfl
@[simp] theorem setCounts_host (a b : BitVec 5) (c : BitVec 4) (s : State) :
    (setCounts a b c s).host = s.host := rfl

/-! ### `rowCommit` -/

@[simp] theorem rowCommit_cfg (s : State) :
    (rowCommit s).cfg = s.cfg := rfl
@[simp] theorem rowCommit_regs (s : State) :
    (rowCommit s).regs = s.regs := rfl
@[simp] theorem rowCommit_ses (s : State) :
    (rowCommit s).ses = s.ses := rfl
@[simp] theorem rowCommit_rd (s : State) :
    (rowCommit s).rd = s.rd := rfl
@[simp] theorem rowCommit_trav (s : State) :
    (rowCommit s).trav = s.trav := rfl
@[simp] theorem rowCommit_eng (s : State) :
    (rowCommit s).eng = s.eng := rfl
@[simp] theorem rowCommit_dyn (s : State) :
    (rowCommit s).dyn = s.dyn := rfl
@[simp] theorem rowCommit_tab (s : State) :
    (rowCommit s).tab = s.tab := rfl
@[simp] theorem rowCommit_win (s : State) :
    (rowCommit s).win = s.win := rfl
@[simp] theorem rowCommit_row (s : State) :
    (rowCommit s).row = { s.row with prior := Memory.copyBelow s.ses.rowbytes s.row.cur s.row.prior, rowsDone := s.row.rowsDone + 1#32, rowReady := false } := rfl
@[simp] theorem rowCommit_err (s : State) :
    (rowCommit s).err = s.err := rfl
@[simp] theorem rowCommit_host (s : State) :
    (rowCommit s).host = s.host := rfl

/-! ### `selectFilter` -/

@[simp] theorem selectFilter_cfg (t : FilterType) (s : State) :
    (selectFilter t s).cfg = s.cfg := rfl
@[simp] theorem selectFilter_regs (t : FilterType) (s : State) :
    (selectFilter t s).regs = s.regs := rfl
@[simp] theorem selectFilter_ses (t : FilterType) (s : State) :
    (selectFilter t s).ses = s.ses := rfl
@[simp] theorem selectFilter_rd (t : FilterType) (s : State) :
    (selectFilter t s).rd = s.rd := rfl
@[simp] theorem selectFilter_trav (t : FilterType) (s : State) :
    (selectFilter t s).trav = s.trav := rfl
@[simp] theorem selectFilter_eng (t : FilterType) (s : State) :
    (selectFilter t s).eng = s.eng := rfl
@[simp] theorem selectFilter_dyn (t : FilterType) (s : State) :
    (selectFilter t s).dyn = s.dyn := rfl
@[simp] theorem selectFilter_tab (t : FilterType) (s : State) :
    (selectFilter t s).tab = s.tab := rfl
@[simp] theorem selectFilter_win (t : FilterType) (s : State) :
    (selectFilter t s).win = s.win := rfl
@[simp] theorem selectFilter_row (t : FilterType) (s : State) :
    (selectFilter t s).row = { s.row with ftype := t, col := 1, pending := none } := rfl
@[simp] theorem selectFilter_err (t : FilterType) (s : State) :
    (selectFilter t s).err = s.err := rfl
@[simp] theorem selectFilter_host (t : FilterType) (s : State) :
    (selectFilter t s).host = s.host := rfl

/-! ### `putRowByte` -/

@[simp] theorem putRowByte_cfg (v p : Byte) (s : State) :
    (putRowByte v p s).cfg = s.cfg := rfl
@[simp] theorem putRowByte_regs (v p : Byte) (s : State) :
    (putRowByte v p s).regs = s.regs := rfl
@[simp] theorem putRowByte_ses (v p : Byte) (s : State) :
    (putRowByte v p s).ses = s.ses := rfl
@[simp] theorem putRowByte_rd (v p : Byte) (s : State) :
    (putRowByte v p s).rd = s.rd := rfl
@[simp] theorem putRowByte_trav (v p : Byte) (s : State) :
    (putRowByte v p s).trav = s.trav := rfl
@[simp] theorem putRowByte_eng (v p : Byte) (s : State) :
    (putRowByte v p s).eng = s.eng := rfl
@[simp] theorem putRowByte_dyn (v p : Byte) (s : State) :
    (putRowByte v p s).dyn = s.dyn := rfl
@[simp] theorem putRowByte_tab (v p : Byte) (s : State) :
    (putRowByte v p s).tab = s.tab := rfl
@[simp] theorem putRowByte_win (v p : Byte) (s : State) :
    (putRowByte v p s).win = s.win := rfl
@[simp] theorem putRowByte_row (v p : Byte) (s : State) :
    (putRowByte v p s).row = { s.row with cur := Memory.write s.row.cur (s.row.col - 1) (v + p), col := if s.row.col + 1 = s.ses.stride then 0 else s.row.col + 1, rowReady := decide (s.row.col + 1 = s.ses.stride), pending := none } := rfl
@[simp] theorem putRowByte_err (v p : Byte) (s : State) :
    (putRowByte v p s).err = s.err := rfl
@[simp] theorem putRowByte_host (v p : Byte) (s : State) :
    (putRowByte v p s).host = s.host := rfl

end Sys2Proof.Machine
end

