-- ==== Sys2Proof/Tests/Slice0.lean ====
section
/-! SUPPORT. The model's own tests: ill-formed terms are refused, words written out from spec/30_encoding.md decode,
single steps on small states give the values of spec/95_test_vectors.md (each test names its vector), and the
hypotheses of the statements are met. -/

-- one proof after another: side by side they need a thread, and its stack, each
set_option Elab.async false

namespace Sys2Proof.Tests
open Sys2Proof.Machine

/-! ### WellFormed: every check refuses an ill-formed term -/

theorem test_wf_refuses_headers :
    [Instr.zlibHdrBadCm 0x78#8 0x01#8, .zlibHdrBadCinfo 0x87#8 0x1C#8, .zlibHdrBadCinfo 0x78#8 0x01#8,
     .zlibHdrBadFcheck 0x77#8 0x01#8, .zlibHdrBadFcheck 0x88#8 0x00#8, .zlibHdrBadFcheck 0x78#8 0x01#8,
     .zlibHdrFdict 0x79#8 0x20#8, .zlibHdrFdict 0x88#8 0x20#8, .zlibHdrFdict 0x78#8 0x21#8,
     .zlibHdrFdict 0x78#8 0x01#8, .zlibHdr 0x07#8 0x00#8, .zlibHdr 0x88#8 0x1C#8, .zlibHdr 0x78#8 0x00#8,
     .zlibHdr 0x78#8 0x20#8].all (fun i => !i.wf 16) = true := by decide +kernel

theorem test_wf_refuses_elements :
    [Instr.storedHdr 6#16 0xFFF8#16, .storedHdrBadNlen 6#16 0xFFF9#16, .dynHdr 30#5 0#5 0#4, .dynHdr 0#5 30#5 0#4,
     .dynHdrBadCounts 29#5 29#5 0#4, .filtInvalid 4#8].all (fun i => !i.wf 16) = true := by decide +kernel

theorem test_wf_refuses_accesses :
    [Instr.regRead 0x1000, .regRead 0x006, .rowRead .b4 0xFFC, .rowRead .b2 0x1001, .rowRead .b4 0x1010,
     .ignoredWrite .b4 0x00C 0#32, .ignoredWrite .b2 0x004 0#32, .ignoredWrite .b4 0x000 1#32,
     .ignoredWrite .b4 0x006 0#32, .ignoredWrite .b4 0x1010 0#32, .ignoredWrite .b2 0x1001 0#32,
     .busError ⟨.read, .b4, 0x004⟩, .busError ⟨.write 0#32, .b1, 0x100F⟩].all (fun i => !i.wf 16) = true := by
  decide +kernel

/-! ### Decode: every constructor, from numbers written out from spec/30_encoding.md -/

/-- Both directions at once for a list of words of one format. -/
def decodesTo (f : Format) (rows : List (Nat × Instr)) : Bool :=
  rows.all fun r => decide (decodeField f r.1 = .ok r.2) && decide (encode r.2 = .field f r.1)

/-- R122: CMF in bits 15:8, FLG in bits 7:0; the headers of vectors Z1, Z6, Z8, Z10, Z11. -/
theorem test_decode_zlib :
    decodesTo .zlibHeader
      [(0b0111100000000001, .zlibHdr 0x78#8 0x01#8), (0b0111100100000001, .zlibHdrBadCm 0x79#8 0x01#8),
       (0b1000100000011100, .zlibHdrBadCinfo 0x88#8 0x1C#8), (0b0111100000000000, .zlibHdrBadFcheck 0x78#8 0x00#8),
       (0b0111100000100000, .zlibHdrFdict 0x78#8 0x20#8)] = true := by decide +kernel

/-- R124, R125, R131: BFINAL in bit 0; LEN in bits 15:0; HLIT, HDIST, HCLEN in bits 4:0, 9:5, 13:10. -/
theorem test_decode_headers :
    decodesTo .blockHeader
      [(0b001, .blkStored true), (0b010, .blkFixed false), (0b101, .blkDynamic true), (0b110, .blkReserved false)]
    && decodesTo .storedHeader
      [(0b11111111111110010000000000000110, .storedHdr 6#16 0xFFF9#16),
       (0b11111111111111000000000000000010, .storedHdrBadNlen 2#16 0xFFFC#16)]
    && decodesTo .storedPayload [(0b00001010, .storedByte 10#8)]
    && decodesTo .dynHeader
      [(0b11100000000001, .dynHdr 1#5 0#5 14#4), (0b00000000011110, .dynHdrBadCounts 30#5 0#5 0#4)]
    && decodesTo .cllField [(0b101, .cll 5#3)] = true := by decide +kernel

/-- R132, R135: code-length symbols and filter types. -/
theorem test_decode_symbols :
    decodesTo .clenSymbol
      [(0b01111, .clLen 15#4), (0b10000, .clRepeatPrev), (0b10001, .clRepeatZero3), (0b10010, .clRepeatZero11)]
    && decodesTo .rowFilter
      [(0b000, .filtNone), (0b001, .filtSub), (0b010, .filtUp), (0b011, .filtAvg), (0b100, .filtPaeth),
       (0b101, .filtInvalid 5#8), (0b11111111, .filtInvalid 255#8)]
    && decide (decodeField .clenSymbol 19 = .error (.noRow .clenSymbol 19))
    && decide (decodeField .litlenSymbol 288 = .error (.noRow .litlenSymbol 288))
    && decide (decodeField .distSymbol 32 = .error (.tooWide .distSymbol 32)) = true := by decide +kernel

/-- R127, R128: literals, end of block and the length symbols. -/
theorem test_decode_litlen_low :
    decodesTo .litlenSymbol
      [(0b011111111, .lit 255#8), (0b100000000, .eob), (0b100000001, .len257), (0b100000010, .len258),
       (0b100000011, .len259), (0b100000100, .len260), (0b100000101, .len261), (0b100000110, .len262),
       (0b100000111, .len263), (0b100001000, .len264), (0b100001001, .len265), (0b100001010, .len266),
       (0b100001011, .len267), (0b100001100, .len268), (0b100001101, .len269), (0b100001110, .len270)] = true := by
  decide +kernel

theorem test_decode_litlen_high :
    decodesTo .litlenSymbol
      [(0b100001111, .len271), (0b100010000, .len272), (0b100010001, .len273), (0b100010010, .len274),
       (0b100010011, .len275), (0b100010100, .len276), (0b100010101, .len277), (0b100010110, .len278),
       (0b100010111, .len279), (0b100011000, .len280), (0b100011001, .len281), (0b100011010, .len282),
       (0b100011011, .len283), (0b100011100, .len284), (0b100011101, .len285), (0b100011110, .litlenRsv286),
       (0b100011111, .litlenRsv287)] = true := by decide +kernel

/-- R129: distance symbols. -/
theorem test_decode_dist :
    decodesTo .distSymbol
      [(0b00000, .dist0), (0b00001, .dist1), (0b00010, .dist2), (0b00011, .dist3), (0b00100, .dist4),
       (0b00101, .dist5), (0b00110, .dist6), (0b00111, .dist7), (0b01000, .dist8), (0b01001, .dist9),
       (0b01010, .dist10), (0b01011, .dist11), (0b01100, .dist12), (0b01101, .dist13), (0b01110, .dist14),
       (0b01111, .dist15)]
    && decodesTo .distSymbol
      [(0b10000, .dist16), (0b10001, .dist17), (0b10010, .dist18), (0b10011, .dist19), (0b10100, .dist20),
       (0b10101, .dist21), (0b10110, .dist22), (0b10111, .dist23), (0b11000, .dist24), (0b11001, .dist25),
       (0b11010, .dist26), (0b11011, .dist27), (0b11100, .dist28), (0b11101, .dist29), (0b11110, .distRsv30),
       (0b11111, .distRsv31)] = true := by decide +kernel

/-- R136, R139, R49: the register map; several CTRL bits; ABORT excludes the others. -/
theorem test_decode_accesses :
    [(HostAccess.mk (.write 0x2#32) .b4 0x000, [Instr.ctrlAbort]),
     (⟨.write 0x3#32, .b4, 0x000⟩, [.ctrlAbort]),
     (⟨.write 0xFFFFFFFD#32, .b4, 0x000⟩, [.ctrlStart, .ctrlRowAck, .ctrlEoi]),
     (⟨.write 0x10#32, .b4, 0x000⟩, [.ignoredWrite .b4 0x000 0x10#32]),
     (⟨.write 7#32, .b4, 0x00C⟩, [.cfgWidthWrite 7#32]), (⟨.write 7#32, .b4, 0x010⟩, [.cfgHeightWrite 7#32]),
     (⟨.write 7#32, .b4, 0x014⟩, [.cfgBppWrite 7#32]), (⟨.write 7#32, .b4, 0x018⟩, [.inDataWrite 7#32]),
     (⟨.read, .b4, 0xFFC⟩, [.regRead 0xFFC]), (⟨.read, .b4, 0x100C⟩, [.rowRead .b4 0x100C]),
     (⟨.write 0#32, .b1, 0x100F⟩, [.ignoredWrite .b1 0x100F 0#32]),
     (⟨.read, .b1, 0x004⟩, [.busError ⟨.read, .b1, 0x004⟩]), (⟨.read, .b4, 0x006⟩, [.busError ⟨.read, .b4, 0x006⟩]),
     (⟨.read, .b4, 0x1010⟩, [.busError ⟨.read, .b4, 0x1010⟩])].all
      (fun r => decide (decodeAccess 16 r.1 = r.2)) = true := by decide +kernel

/-- Vectors H13 to H24: the fixed codes, first bit read first. -/
theorem test_fixed_codes :
    [(0, [false, false, true, true, false, false, false, false]),
     (143, [true, false, true, true, true, true, true, true]),
     (144, [true, true, false, false, true, false, false, false, false]),
     (255, [true, true, true, true, true, true, true, true, true]),
     (256, [false, false, false, false, false, false, false]),
     (279, [false, false, true, false, true, true, true]),
     (280, [true, true, false, false, false, false, false, false]),
     (287, [true, true, false, false, false, true, true, true])].all (fun r => decide (fixedLitCode r.1 = r.2))
    && [(0, [false, false, false, false, false]), (1, [false, false, false, false, true]),
        (29, [true, true, true, false, true]), (31, [true, true, true, true, true])].all
        (fun r => decide (fixedDistCode r.1 = r.2)) = true := by decide +kernel

/-! ### Huffman tables -/

/-- Vectors H1 to H12: the status of a build. -/
theorem test_build_status :
    ([[1, 1], [0, 1], [2, 2], [1, 1, 1], [0, 0, 0], [2, 2, 2, 2], [1, 2, 2], [1, 2, 3], [2, 1, 0, 2], [15, 15],
      [1, 15], [3, 3, 3, 3, 3, 2, 4, 4]].map fun l => (build l).status)
      = [.complete, .single1, .incomplete, .oversub, .empty, .complete, .complete, .incomplete, .complete,
         .incomplete, .incomplete, .complete] := by decide +kernel

/-- The example of R260: codes 010, 011, 100, 101, 110, 00, 1110, 1111. -/
theorem test_canonical_codes :
    ((List.range 8).map fun s => canonicalCode [3, 3, 3, 3, 3, 2, 4, 4] s)
      = [[false, true, false], [false, true, true], [true, false, false], [true, false, true], [true, true, false],
         [false, false], [true, true, true, false], [true, true, true, true]] := by decide +kernel

/-! ### Small states -/

/-- The parameters of the tests: a FIFO of 4 bytes, rows of at most 16 bytes, a base address that is not 0. -/
def cfg4 : Config := { inFifoDepth := 4, maxRowBytes := 16, baseAddr := 0x4000, undecodedBusError := true }

/-- The state an outcome answers. -/
def stateOf (r : Result) : State :=
  match r with
  | .next s => s
  | .fault _ => State.reset
  | .refused _ => State.reset

/-- `s` with a write of `data` at `offset` as its host's next access. -/
def writing (offset : Nat) (data : Word) (s : State) : State :=
  { s with host := { s.host with queue := [s.busWrite offset data] } }

/-- `s` with a read at `offset` as its host's next access. -/
def reading (w : AccessWidth) (offset : Nat) (s : State) : State :=
  { s with host := { s.host with queue := [⟨.read, w, s.cfg.baseAddr + offset⟩] } }

/-- After reset, with CFG 2 × 2, bpp 1. -/
def configured : State :=
  { State.resetOf cfg4 with regs := { cfgWidth := 2#32, cfgHeight := 2#32, cfgBpp := 1#3 } }

/-- After START in `configured`. -/
def started : State := stateOf (step (writing 0x000 1#32 configured))

/-- In RUN, 2 × 2, bpp 1, at phase `p`, with `bytes` queued and nothing awaited. -/
def running (p : Phase) (bytes : List Byte) : State :=
  { started with
    rd := { started.rd with fifo := bytes }
    eng := { started.eng with phase := p, needInput := false }
    tab := { lit := fixedLit, dist := fixedDist, clt := build (placedClenLengths.map BitVec.toNat) } }

/-- Row 0 = [10, 20] ready in RUN. -/
def rowWaiting : State :=
  { running .pStoredCopy [] with
    eng := { (running .pStoredCopy []).eng with lenRem := 3#16 }
    row := { started.row with cur := [(0, 10#8), (1, 20#8)], rowReady := true } }

/-- The byte `v` handed to the row stream at column `col` of a row of `bpp` 1, with the bytes before it in `cur` and,
for `prior`, a row above. -/
def rowByte (v : Byte) (col : Nat) (cur : Memory) (prior : Memory) (done : Word) : State :=
  { running .pSym [] with
    ses := { started.ses with stride := 8, rowbytes := 7 }
    row := { started.row with col := col, cur := cur, prior := prior, rowsDone := done, pending := some v } }

/-- The invariant of a state with no error, from the values of its fields. -/
theorem started_inv : started.Inv where
  cfgOk := by decide +kernel
  winOk := by decide +kernel
  histOk := by decide +kernel
  sessionOk := by decide +kernel
  copyOk := by decide +kernel
  curOk := by decide +kernel
  priorOk := by decide +kernel
  bitsOk := by decide +kernel
  fifoOk := by decide +kernel
  takenOk := by decide +kernel
  fieldOk := by decide +kernel
  dynOk := by decide +kernel
  contOk := by decide +kernel
  outsideRun := by decide +kernel
  runConfig := by decide +kernel
  runRow := by decide +kernel
  rowOk := by decide +kernel
  doneOk := by decide +kernel
  errorOk := ⟨fun h => absurd h (by decide +kernel), by decide +kernel⟩

/-! ### Bit Reader -/

/-- The value a read completes with, 999 where it stops. -/
def valueOf (r : Read Nat) : Nat :=
  match r with
  | .done v _ => v
  | .stop _ => 999

/-- Vectors B1 to B5: bits of a byte from bit 0; fields least significant bit first, across byte boundaries. -/
theorem test_read_bits :
    (takeBits 8 (running .pBhdr [0xA5#8])).map (fun p => (p.1, p.2.rd.inCount))
        = some ([true, false, true, false, false, true, false, true], 1#32)
      ∧ (takeBits 4 (running .pBhdr [0xF0#8, 0x0F#8])).map (fun p => valueOf (readField 8 p.2)) = some 0xFF
      ∧ (takeBits 3 (running .pBhdr [0x01#8, 0xAB#8, 0xCD#8])).map (fun p => valueOf (readField 16 (alignToByte p.2)))
        = some 0xCDAB
      ∧ valueOf (readField 0 (running .pBhdr [])) = 0 := by decide +kernel

/-- Vectors B6, B7: an empty FIFO suspends, and raises TRUNCATED after END_OF_INPUT. -/
theorem test_read_bit_stops :
    (match readBit (running .pBhdr []) with
      | .stop t => decide (t.eng.needInput = true) && decide (t.ses.state = .run)
      | .done _ _ => false) = true
      ∧ (match readBit { running .pBhdr [] with rd := { started.rd with eoi := true } } with
        | .stop t => decide (t.errorWord = 0x00001203#32) && decide (t.ses.state = .error)
        | .done _ _ => false) = true := by decide +kernel

/-- R33, R57, R204: at the 2^32nd byte `in_count` wraps and the bit position does not. -/
theorem test_bit_position :
    (let r : Reader := { started.rd with inCount := 0xFFFFFFFF#32, bytesTaken := 4294967295, fifo := [1#8] }
     r.bitPosition = 34359738360
      ∧ (takeBits 1 { running .pBhdr [] with rd := r }).map (fun p => (p.2.rd.inCount, p.2.rd.bitPosition))
        = some (0#32, 34359738361)) := by decide +kernel

/-- R269: a SINGLE1 table, the bit 1 and fourteen 0s: INVALID_CODE with 15 bits consumed. -/
theorem test_invalid_code :
    (stateOf (step { running .pSym [1#8, 0#8] with
        tab := { started.tab with lit := build [1] } })).errorWord = 0x00070E03#32 := by decide +kernel

/-! ### Single steps (the vectors name their values) -/

/-- The example of R441: STATUS 0x05, ROW_BYTES 2. Vectors X2, X5: the errors of a bad configuration. -/
theorem test_start :
    started.status = 5#32 ∧ started.register 0x028 = 2#32
      ∧ (stateOf (exec .ctrlStart { configured with regs := { configured.regs with cfgBpp := 0#3 } })).errorWord
        = 0x00003002#32
      ∧ (stateOf (exec .ctrlStart { configured with regs := { configured.regs with cfgWidth := 17#32 } })).errorWord
        = 0x00003102#32
      ∧ (stateOf (exec .ctrlStart { configured with regs := ⟨0#32, 1#32, 7#3⟩ })).errorWord = 0x00002201#32 := by
  decide +kernel

/-- Vector X8: START and EOI in one write. -/
theorem test_start_eoi :
    (stateOf (step (writing 0x000 5#32 configured))).status = 0x13#32
      ∧ (stateOf (step (writing 0x000 5#32 configured))).errorWord = 0x1203#32 := by decide +kernel

/-- The example of R447: the first byte is taken at once. -/
theorem test_in_data :
    (stateOf (step (writing 0x018 0xFF78#32 started))).status = 5#32
      ∧ (stateOf (step (writing 0x018 0xFF78#32 started))).rd.inCount = 1#32 := by decide +kernel

/-- Vectors X17, X18: the ROW window, and the bus errors. -/
theorem test_row_window :
    (stateOf (step (reading .b4 0x1000 rowWaiting))).host.resp = .value 0x140A#32
      ∧ (stateOf (step (reading .b1 0x1001 rowWaiting))).host.resp = .value 0x14#32
      ∧ (stateOf (step (reading .b1 0x004 rowWaiting))).host.resp = .busError
      ∧ (stateOf (step (reading .b4 0x006 rowWaiting))).host.resp = .busError := by decide +kernel

/-- R411: the acknowledged row becomes the prior row; vector X15: the fifth byte overflows a FIFO of 4. -/
theorem test_row_ack_and_overflow :
    (stateOf (exec .ctrlRowAck rowWaiting)).row.prior = [(0, 10#8), (1, 20#8)]
      ∧ (stateOf (exec .ctrlRowAck rowWaiting)).row.rowsDone = 1#32
      ∧ (stateOf (exec (.inDataWrite 0xEC#32)
          { rowWaiting with rd := { rowWaiting.rd with fifo := [0#8, 0x1E#8, 0x28#8, 0#8], bytesTaken := 4 } })).errorWord
        = 0x00084004#32 := by decide +kernel

/-- The example of R234: byte 0x07 as a block header raises BTYPE_RESERVED with BITS_USED = 3. -/
theorem test_reserved_block :
    (stateOf (step (running .pBhdr [0x07#8]))).errorWord = 0x00030503#32
      ∧ (stateOf (step (running .pBhdr [0x07#8]))).eng.finalSeen = true := by decide +kernel

/-- Vector Z6: the header 79 01 raises ZLIB_CM with BITS_USED = 8. -/
theorem test_zlib_cm : (stateOf (step (running .pZhdr [0x79#8, 0x01#8]))).errorWord = 0x00080103#32 := by
  decide +kernel

/-- R229, R231: LEN and NLEN little-endian; a payload byte is emitted. -/
theorem test_stored :
    (stateOf (step (running .pStoredHdr [6#8, 0#8, 0xF9#8, 0xFF#8]))).eng.lenRem = 6#16
      ∧ (stateOf (exec (.storedByte 0x0A#8) (running .pStoredCopy []))).row.pending = some 0x0A#8
      ∧ (stateOf (exec (.storedByte 0x0A#8) (running .pStoredCopy []))).win
        = { win := [(0, 0x0A#8)], wp := 1#15, hist := 1 } := by decide +kernel

/-- Vector L48 (symbol 284, extra 30 is 257), D40's 284 with extra 31, and 285. -/
theorem test_lengths :
    (stateOf (exec .len284 (running .pSym [30#8]))).eng.copyLen = 257#9
      ∧ (stateOf (exec .len284 (running .pSym [31#8]))).eng.copyLen = 258#9
      ∧ (stateOf (exec .len285 (running .pSym []))).eng.copyLen = 258#9
      ∧ (stateOf (exec .len284 (running .pSym []))).eng.needInput = true := by decide +kernel

/-- Vectors D55, D56 (symbol 29 is 24577 to 32768) and the check of R368. -/
theorem test_distances :
    (stateOf (exec .dist29 { running .pDist [0xFF#8, 0x1F#8] with win := ⟨[], 0#15, 32768⟩ })).eng.copyDist = 32768#16
      ∧ (stateOf (exec .dist29 { running .pDist [0xFF#8, 0x1F#8] with win := ⟨[], 0#15, 32767⟩ })).err.cause = 0x11#8
      ∧ (stateOf (exec .dist29 { running .pDist [0#8, 0#8] with win := ⟨[], 0#15, 24577⟩ })).eng.phase = .pCopy := by
  decide +kernel

/-- Vector Y6: code-length symbol 16 first; the example of R257: six copies of 8 after [8]. -/
theorem test_repeats :
    (stateOf (exec .clRepeatPrev (running .pDynLens []))).err.cause = 0x09#8
      ∧ (stateOf (exec .clRepeatPrev
          { running .pDynLens [3#8] with dyn := { started.dyn with hlit := 257, hdist := 1, lens := [8#4] } })).dyn.lens
        = [8#4, 8#4, 8#4, 8#4, 8#4, 8#4, 8#4] := by decide +kernel

/-- The examples of R255 and R262: fields 1, 0, 0, 1 are accepted, 1, 0, 0, 0 are not. -/
theorem test_code_length_code :
    (stateOf (exec (.cll 1#3)
        { running .pDynClen [] with
          dyn := { started.dyn with hclen := 4, clIdx := 3, cl := (List.replicate 19 0#3).set 16 1#3 } })).eng.phase
        = .pDynLens
      ∧ (stateOf (exec (.cll 0#3)
        { running .pDynClen [] with
          dyn := { started.dyn with hclen := 4, clIdx := 3, cl := (List.replicate 19 0#3).set 16 1#3 } })).err.cause
        = 0x08#8 := by decide +kernel

/-- Vectors F3 (Sub wraps), F9 (Up wraps), F12 (the 9-bit sum of Average), and F18 (Paeth picks b). -/
theorem test_filters :
    (stateOf (exec .filtSub (rowByte 100#8 2 [(0, 200#8)] [] 0#32))).row.cur = [(0, 200#8), (1, 44#8)]
      ∧ (stateOf (exec .filtUp (rowByte 250#8 2 [(0, 11#8)] [(0, 10#8), (1, 20#8)] 1#32))).row.cur
        = [(0, 11#8), (1, 14#8)]
      ∧ (stateOf (exec .filtAvg (rowByte 0#8 2 [(0, 127#8)] [(0, 255#8), (1, 255#8)] 1#32))).row.cur
        = [(0, 127#8), (1, 191#8)]
      ∧ (stateOf (exec .filtPaeth (rowByte 0#8 2 [(0, 200#8)] [(0, 250#8), (1, 100#8)] 1#32))).row.cur
        = [(0, 200#8), (1, 100#8)] := by decide +kernel

/-- The examples of R409 and vectors F19 to F23. -/
theorem test_paeth :
    [paeth 10#8 20#8 15#8, paeth 10#8 10#8 10#8, paeth 0#8 6#8 0#8, paeth 200#8 100#8 250#8, paeth 0#8 100#8 50#8,
     paeth 30#8 0#8 10#8, paeth 0#8 30#8 10#8, paeth 50#8 50#8 0#8, paeth 255#8 255#8 0#8]
      = [15#8, 10#8, 6#8, 100#8, 50#8, 30#8, 30#8, 50#8, 255#8] := by decide +kernel

/-- Words of spec/opcode_table.json placed for the first step after reset run: a symbol, an access, a row byte. -/
theorem test_placed_words :
    (stateOf (step (State.reset.withFetchWord 16 285))).eng.copyLen = 258#9
      ∧ (stateOf (step (State.reset.withFetchWord 32 0x004))).host.resp = .value 0#32
      ∧ (stateOf (step (State.reset.withFetchWord 8 3))).row.ftype = .avg
      ∧ (stateOf (step (State.reset.withFetchWord 16 0x7801))).eng.phase = .pBhdr := by decide +kernel

/-! ### The hypotheses of the statements are met -/

/-- DecodeOfEncode, EveryValueHasOneRow: at the ends of the ranges. -/
theorem witness_encoding :
    (Instr.ignoredWrite .b4 0xFFC 5#32).wf 4 = true ∧ (Instr.rowRead .b4 0x1000).wf 4 = true
      ∧ 18 < 2 ^ Format.clenSymbol.bits ∧ 31 < 2 ^ Format.clenSymbol.bits ∧ 287 < 2 ^ Format.litlenSymbol.bits
      ∧ decodeField .litlenSymbol 287 = .ok .litlenRsv287 := by decide +kernel

/-- ReadBitTakesNextBit: each of the four cases. ReadBitsTakesNextBits: all the bits there are, from the start and with
three bits already read, and a byte held of which three bits are unread. -/
theorem witness_read :
    ((running .pBhdr []).rd.nbits = 0 ∧ (running .pBhdr []).rd.fifo = [] ∧ (running .pBhdr []).rd.eoi = false)
      ∧ ({ started.rd with eoi := true }.eoi = true ∧ (running .pBhdr [1#8]).rd.fifo = 1#8 :: [])
      ∧ ({ started.rd with nbits := 1, curByte := 1#8 } : Reader).nbits ≠ 0
      ∧ (running .pBhdr [1#8, 2#8]).rd.fieldBits = [] ∧ 16 ≤ (running .pBhdr [1#8, 2#8]).rd.pendingBits.length
      ∧ ([true, false, true].length ≤ 16 ∧ 16 - [true, false, true].length ≤ (running .pBhdr [1#8, 2#8]).rd.pendingBits.length)
      ∧ (let r : Reader := { started.rd with nbits := 3, curByte := 5#8, bytesTaken := 1 }
         r.nbits ≤ 8 * r.bytesTaken) := by
  decide +kernel

/-- The state a read stops in. -/
def stopOf (r : Read Nat) : State :=
  match r with
  | .stop t => t
  | .done _ t => t

/-- Whether a read stops. -/
def stops (r : Read Nat) : Bool :=
  match r with
  | .stop _ => true
  | .done _ _ => false

theorem eq_stop_of {r : Read Nat} (h : stops r = true) : r = .stop (stopOf r) := by
  cases r <;> simp_all [stops, stopOf]

/-- Whether an outcome answers a state. -/
def answers (r : Result) : Bool :=
  match r with
  | .next _ => true
  | .fault _ => false
  | .refused _ => false

theorem eq_next_of {r : Result} (h : answers r = true) : r = .next (stateOf r) := by
  cases r <;> simp_all [answers, stateOf]

/-- SplitInputReadsAlike: a field and a code that stop after 8 bits. -/
theorem witness_split :
    (running .pZhdr [0x78#8]).rd.eoi = false
      ∧ readField 16 (running .pZhdr [0x78#8]) = .stop (stopOf (readField 16 (running .pZhdr [0x78#8])))
      ∧ (stopOf (readField 16 (running .pZhdr [0x78#8]))).eng.needInput = true
      ∧ decodeSymbol fixedLit (running .pSym [0xFF#8]) = .stop (stopOf (decodeSymbol fixedLit (running .pSym [0xFF#8])))
      ∧ (stopOf (decodeSymbol fixedLit (running .pSym [0xFF#8]))).eng.needInput = true :=
  ⟨by decide +kernel, eq_stop_of (by decide +kernel), by decide +kernel, eq_stop_of (by decide +kernel),
    by decide +kernel⟩

/-- A state whose block is the final one. -/
def final (s : State) : State := { s with eng := { s.eng with bfinal := true } }

/-- BlockEndResults: the end of a stored block, and the three ends (not final; final too early; final at the end). -/
theorem witness_block_end :
    (engineIdle (running .pStoredCopy []) = false ∧ (running .pStoredCopy []).row.pending = none
        ∧ (running .pStoredCopy []).eng.lenRem = 0#16)
      ∧ (running .pSym []).eng.bfinal = false
      ∧ ((final (running .pSym [])).eng.bfinal = true
        ∧ (final (running .pSym [])).row.rowsDone.toNat < (final (running .pSym [])).ses.height.toNat)
      ∧ ((final (rowByte 0#8 0 [] [] 2#32)).eng.bfinal = true
        ∧ (final (rowByte 0#8 0 [] [] 2#32)).ses.height.toNat
          ≤ (final (rowByte 0#8 0 [] [] 2#32)).row.rowsDone.toNat) := by
  decide +kernel

/-- TableStatusByCodeSpace and CanonicalCodesDecode: the example of R260, symbol 7 with code 1111. -/
theorem witness_tables :
    (∀ l ∈ [3, 3, 3, 3, 3, 2, 4, 4], l ≤ 15) ∧ (build [3, 3, 3, 3, 3, 2, 4, 4]).status ≠ .oversub
      ∧ [3, 3, 3, 3, 3, 2, 4, 4].getD 7 0 ≠ 0 ∧ (running .pSym [0x0F#8]).trav = Traversal.fresh
      ∧ (running .pSym [0x0F#8]).rd.pendingBits
        = canonicalCode [3, 3, 3, 3, 3, 2, 4, 4] 7 ++ [false, false, false, false] := by decide +kernel

/-- CanonicalCodesDecode: a COMPLETE table with 15 bits at hand; an EMPTY one, and a SINGLE1 one before the bit 1, with 15
bits and with fewer; a SINGLE1 one with no bit at all. -/
theorem witness_invalid_code :
    ((build [1, 1]).status = .complete ∧ 15 ≤ (running .pSym [1#8, 0#8]).rd.pendingBits.length)
      ∧ ((build [0, 0]).status = .empty ∧ (build [0, 1]).status = .single1 ∧ ∀ l ∈ [0, 1], l ≤ 15)
      ∧ (running .pSym [1#8, 0#8]).rd.pendingBits.head? ≠ some false
      ∧ (running .pSym [1#8]).rd.pendingBits.head? ≠ some false ∧ (running .pSym []).rd.pendingBits.head? ≠ some false
      ∧ (running .pSym [1#8]).rd.pendingBits.length < 15 ∧ { started.rd with eoi := true, fifo := [1#8] }.eoi = true := by
  decide +kernel

/-- FixedCodesDecode: symbols 287 and 31, the last ones. -/
theorem witness_fixed_codes :
    (running .pSym [0xE3#8]).rd.pendingBits = fixedLitCode 287 ++ []
      ∧ (running .pDist [0x1F#8]).rd.pendingBits = fixedDistCode 31 ++ [false, false, false]
      ∧ (running .pDist [0x1F#8]).trav = Traversal.fresh := by decide +kernel

/-- CodeLengthCodeResults, CodeLengthAppends: before the last field or length, and at it. -/
theorem witness_code_lengths :
    (0 + 1 < 4 ∧ 4 ≤ 3 + 1)
      ∧ (build (((List.replicate 19 0#3).set 16 1#3).set 0 1#3 |>.map BitVec.toNat)).status = .complete
      ∧ (build ((List.replicate 19 0#3).set 16 1#3 |>.map BitVec.toNat)).status ≠ .complete
      ∧ (List.replicate 256 0#4).length + 1 < 257 + 1 ∧ 257 + 1 ≤ (List.replicate 257 0#4).length + 1 := by
  decide +kernel

/-- A dynamic header with `lens` filled, and its 7 extra bits all 1. -/
def repeating (lens : List (BitVec 4)) : State :=
  { running .pDynLens [0x7F#8] with dyn := { started.dyn with hlit := 257, hdist := 1, lens := lens } }

/-- RepeatAppendsLengths: 138 zeros past the end, before the end, and exactly to the end; no bit left. -/
theorem witness_repeat :
    (repeating []).rd.fieldBits = [] ∧ 7 ≤ (repeating []).rd.pendingBits.length
      ∧ (running .pDynLens []).rd.pendingBits.length < 7
      ∧ (repeating [8#4]).dyn.lens.getLast? = some 8#4
      ∧ 257 + 1 < (List.replicate 121 0#4).length + (11 + bitsToNat ((repeating []).rd.pendingBits.take 7))
      ∧ (List.replicate 119 0#4).length + (11 + bitsToNat ((repeating []).rd.pendingBits.take 7)) < 257 + 1
      ∧ (List.replicate 120 0#4).length + (11 + bitsToNat ((repeating []).rd.pendingBits.take 7)) = 257 + 1 := by
  decide +kernel

/-- The code lengths of `zeros` zeros, then `tail`, with 257 literal/length lengths. -/
def lengths (zeros : Nat) (tail : List (BitVec 4)) : List (BitVec 4) := List.replicate zeros 0#4 ++ tail

/-- The status of the two tables of a header with those lengths. -/
def statuses (lens : List (BitVec 4)) : TableStatus × TableStatus :=
  let d : DynHeader := { started.dyn with hlit := 257, hdist := 1, lens := lens }
  ((build (litLengths d)).status, (build (distLengths d)).status)

/-- BlockTablesInOrder: no end-of-block code; a bad literal/length code; a bad distance code; all accepted. -/
theorem witness_block_tables :
    (lengths 258 []).getD 256 0#4 = 0#4
      ∧ statuses (lengths 256 [2#4, 1#4]) = (.incomplete, .single1)
      ∧ statuses (lengths 256 [1#4, 2#4]) = (.single1, .incomplete)
      ∧ statuses (lengths 256 [1#4, 0#4]) = (.single1, .empty) := by decide +kernel

/-- LiteralEmitsByte: within the image and beyond it. WindowWriteThenRead, CopyRepeatsWithPeriod: both ends. -/
theorem witness_emit :
    (running .pSym []).row.rowsDone ≠ (running .pSym []).ses.height
      ∧ (rowByte 0#8 0 [] [] 2#32).row.rowsDone = (rowByte 0#8 0 [] [] 2#32).ses.height
      ∧ Memory.wf 32768 [(0, 1#8), (32767, 2#8)] = true ∧ (1 < 32768 ∧ 32767 < 32768) ∧ (257 < 258 ∧ 258 ≤ 258) := by
  decide +kernel

/-- LengthSymbolResults, DistanceSymbolResults: the symbols with the most extra bits, exactly that many bits unread, and
no bit left after four of them; a distance of exactly `hist`, and one more. -/
theorem witness_symbols :
    (Instr.len284, 284, 227, 5) ∈ lengthRows ∧ (Instr.dist29, 29, 24577, 13) ∈ distanceRows
      ∧ (running .pSym []).rd.fieldBits = []
      ∧ ([true, true, true, true].length ≤ 5 ∧ (running .pLenExtra []).rd.pendingBits.length < 5 - 4
        ∧ (running .pDistExtra []).rd.pendingBits.length < 13 - 4)
      ∧ 5 ≤ ({ (running .pSym []).rd with nbits := 5, curByte := 31#8 } : Reader).pendingBits.length
      ∧ 13 ≤ ({ (running .pSym [0xFF#8]).rd with nbits := 5, curByte := 31#8 } : Reader).pendingBits.length
      ∧ 24577 + bitsToNat (({ (running .pSym [0xFF#8]).rd with nbits := 5, curByte := 31#8 } : Reader).pendingBits.take 13)
        = 32768 := by decide +kernel

/-- CopyStepResults, RowStopsEngine, StepRunsCodedElement, StepRunsFieldElement: busy and stopped engines. -/
theorem witness_engine :
    (engineIdle (running .pCopy []) = false ∧ (running .pCopy []).eng.copyLen = 0#9)
      ∧ engineIdle { running .pCopy [] with eng := { (running .pCopy []).eng with copyLen := 258#9 } } = false
      ∧ (rowWaiting.ses.state = .run ∧ rowWaiting.row.rowReady = true
        ∧ (reading .b4 0x1000 rowWaiting).accessInstrs ⟨.read, .b4, 0x5000⟩ = [.rowRead .b4 0x1000])
      ∧ ((Phase.pStoredHdr, Format.storedHeader, 32) ∈ fieldPhases
        ∧ engineIdle (running .pStoredHdr [0#8, 0#8, 0xFF#8, 0xFF#8]) = false
        ∧ 32 ≤ (running .pStoredHdr [0#8, 0#8, 0xFF#8, 0xFF#8]).rd.pendingBits.length
        ∧ decodeField .storedHeader
          (bitsToNat ((running .pStoredHdr [0#8, 0#8, 0xFF#8, 0xFF#8]).rd.pendingBits.take 32))
            = .ok (.storedHdr 0#16 0xFFFF#16))
      ∧ (engineIdle (running .pZhdr [0x78#8, 1#8]) = false
        ∧ decodeField .zlibHeader
          (bitsToNat ((running .pZhdr [0x78#8, 1#8]).rd.pendingBits.take 8) * 256
            + bitsToNat (((running .pZhdr [0x78#8, 1#8]).rd.pendingBits.drop 8).take 8))
            = .ok (.zlibHdr 0x78#8 1#8))
      ∧ (engineIdle (running .pZhdr [0x78#8]) = false ∧ (Phase.pZhdr, Format.zlibHeader, 16) ∈ (.pZhdr, .zlibHeader, 16) :: fieldPhases
        ∧ [true, false].length + (running .pZhdr [0x78#8]).rd.pendingBits.length < 16)
      ∧ engineIdle (rowByte 4#8 0 [] [] 0#32) = false ∧ engineIdle (rowByte 4#8 1 [] [] 0#32) = false := by
  decide +kernel

/-- StepRunsCodedElement: the end-of-block code at P_SYM; a decoding that stops; a symbol at its extra bits. -/
theorem witness_coded :
    (Phase.pSym, Format.litlenSymbol, fixedLit) ∈ (running .pSym [0#8]).codedPhases
      ∧ valueOf (decodeSymbol fixedLit (running .pSym [0#8])) = 256 ∧ decodeField .litlenSymbol 256 = .ok .eob
      ∧ (engineIdle (running .pSym [0xFF#8]) = false ∧ stops (decodeSymbol fixedLit (running .pSym [0xFF#8])) = true)
      ∧ (engineIdle (running .pLenExtra []) = false ∧ (Phase.pLenExtra, Format.litlenSymbol) ∈ extraPhases
        ∧ decodeField .litlenSymbol (284#9).toNat = .ok .len284) := by
  decide +kernel

/-- FilterTypeByteResults, FilterReconstructsByte, FilterRoundTrip: column 0, a later column, the start of a row. -/
theorem witness_filters :
    ((rowByte 5#8 0 [] [] 0#32).row.pending = some 5#8 ∧ (rowByte 5#8 0 [] [] 0#32).row.col = 0)
      ∧ (rowByte 5#8 7 [] [] 0#32).row.col ≠ 0
      ∧ decodeField .rowFilter (4#8).toNat = .ok (filterInstr .paeth)
      ∧ (let s := { rowByte 0#8 0 [] [(0, 3#8)] 1#32 with row := { (rowByte 0#8 0 [] [(0, 3#8)] 1#32).row with pending := none } }
         1 ≤ 7 ∧ 7 ≤ 16 ∧ s.ses.stride = 7 + 1 ∧ 1 ≤ s.ses.bpp.toNat ∧ s.row.col = 0 ∧ s.row.rowReady = false
          ∧ s.row.pending = none ∧ Memory.wf 16 s.row.cur = true) := by decide +kernel

/-- StartResult: a zero dimension, a bad bpp, a row one byte too long, and the longest row there is. -/
theorem witness_start :
    (0#32 = 0#32 ∧ ¬ (1 ≤ (5#3).toNat ∧ (5#3).toNat ≤ 4)) ∧ cfg4.maxRowBytes < (17#32).toNat * (1#3).toNat
      ∧ (4#32).toNat * (4#3).toNat ≤ cfg4.maxRowBytes ∧ 4#32 ≠ 0#32 := by decide +kernel

/-- RowAckResult, EoiResult, InDataResult, RowReadResult, OutsideRunOnlyStartAbort: a row waiting, no row, a full FIFO,
and not in RUN. -/
theorem witness_commands :
    (rowWaiting.ses.state = .run ∧ rowWaiting.row.rowReady = true)
      ∧ ¬ (started.ses.state = .run ∧ started.row.rowReady = true) ∧ started.row.rowReady = false
      ∧ configured.ses.state ≠ .run ∧ started.rd.fifo.length ≠ started.cfg.inFifoDepth
      ∧ (running .pStoredCopy [1#8, 2#8, 3#8, 4#8]).rd.fifo.length
        = (running .pStoredCopy [1#8, 2#8, 3#8, 4#8]).cfg.inFifoDepth
      ∧ (writing 0x018 1#32 configured).accessInstrs ((writing 0x018 1#32 configured).busWrite 0x018 1#32)
        = [.inDataWrite 1#32] := by decide +kernel

/-- BusErrorResult, StepRunsHostAccess: a misaligned access; an access past the window, and one just below BASE_ADDR, with
and without a platform response. -/
theorem witness_bus_error :
    (HostAccess.mk .read .b2 0x1001).misaccess = true ∧ (HostAccess.mk .read .b4 0x2000).misaccess = false
      ∧ cfg4.undecodedBusError = true ∧ { cfg4 with undecodedBusError := false }.undecodedBusError = false
      ∧ engineIdle (reading .b1 0xFFF started) = true
      ∧ (AccessWidth.b1 ≠ .b4 ∧ 0x4FFF - started.cfg.baseAddr < 0x1000)
      ∧ (0x5002 - started.cfg.baseAddr) % AccessWidth.b4.bytes ≠ 0
      ∧ 0x3FFF < started.cfg.baseAddr
      ∧ (started.cfg.baseAddr + 0x1000 + started.cfg.rowWinSize ≤ 0x5010
        ∧ (0x5010 - started.cfg.baseAddr) % AccessWidth.b4.bytes = 0) := by decide +kernel

/-- StepRunsHostAccess, CtrlCommandsInOrder, ReadsHaveNoSideEffect, StatusAndErrorFields: an idle machine. -/
theorem witness_access :
    engineIdle started = true ∧ started.host.queue = []
      ∧ (writing 0x000 0xC#32 started).host.queue = (writing 0x000 0xC#32 started).busWrite 0x000 0xC#32 :: []
      ∧ ((2#32).getLsbD 1 = true ∧ (0xC#32).getLsbD 1 = false ∧ (0xC#32).toNat % 16 ≠ 0 ∧ (0x10#32).toNat % 16 = 0)
      ∧ started.cfg.baseAddr ≤ 0x4004
      ∧ (reading .b4 0x004 started).accessInstrs ⟨.read, .b4, 0x4004⟩ = [.regRead 0x004]
      ∧ started.rd.fifo.length < 65536 := by decide +kernel

/-- RaiseEntersError: the step of START + EOI on an empty FIFO enters ERROR. -/
theorem witness_raise :
    step (writing 0x000 5#32 configured) = .next (stateOf (step (writing 0x000 5#32 configured)))
      ∧ (writing 0x000 5#32 configured).ses.state ≠ .error
      ∧ (stateOf (step (writing 0x000 5#32 configured))).ses.state = .error :=
  ⟨eq_next_of (by decide +kernel), by decide +kernel, by decide +kernel⟩

/-- The frames and RunEngineReachesQuiescence: instructions and runs that answer a state. -/
theorem witness_frames :
    exec .eob (running .pSym []) = .next (stateOf (exec .eob (running .pSym [])))
      ∧ runEngine exec (running .pBhdr [0x07#8]) = .next (stateOf (runEngine exec (running .pBhdr [0x07#8]))) :=
  ⟨eq_next_of (by decide +kernel), eq_next_of (by decide +kernel)⟩

theorem started_run : started.ses.state = .run := by decide +kernel

theorem started_no_row : started.row.rowReady = false := by decide +kernel

theorem started_quiet : started.Quiet := ⟨by decide +kernel, by decide +kernel⟩

/-- QuietMeansWaiting, StepKeepsInvariant, StepKeepsQuiescence, StepNeverFaults, EndOfInputWhileWaiting,
StateTransitions: after START, in RUN with no row waiting, with each command as the next access. -/
theorem witness_machine (data : Word) :
    (writing 0x000 data started).Inv ∧ (writing 0x000 data started).Quiet
      ∧ (writing 0x000 data started).ses.state = .run ∧ (writing 0x000 data started).row.rowReady = false
      ∧ (writing 0x000 data started).host.queue = (writing 0x000 data started).busWrite 0x000 data :: [] :=
  ⟨started_inv.withHost _, started_quiet.withHost _, started_run, started_no_row, rfl⟩

/-- Whether an outcome is the platform's refusal. -/
def refuses (r : Result) : Bool :=
  match r with
  | .next _ => false
  | .fault _ => false
  | .refused e => decide (e = .platformAccess)

theorem eq_refused_of {r : Result} (h : refuses r = true) : r = .refused .platformAccess := by
  cases r <;> simp_all [refuses]

/-- On a platform without bus errors, with a read just below BASE_ADDR as the next access. -/
def below : State :=
  { started with
    cfg := { cfg4 with undecodedBusError := false }
    host := { started.host with queue := [⟨.read, .b1, 0x3FFF⟩] } }

/-- StepNeverFaults: it has the invariant. -/
theorem below_inv : below.Inv where
  cfgOk := by decide +kernel
  winOk := by decide +kernel
  histOk := by decide +kernel
  sessionOk := by decide +kernel
  copyOk := by decide +kernel
  curOk := by decide +kernel
  priorOk := by decide +kernel
  bitsOk := by decide +kernel
  fifoOk := by decide +kernel
  takenOk := by decide +kernel
  fieldOk := by decide +kernel
  dynOk := by decide +kernel
  contOk := by decide +kernel
  outsideRun := by decide +kernel
  runConfig := by decide +kernel
  runRow := by decide +kernel
  rowOk := by decide +kernel
  doneOk := by decide +kernel
  errorOk := ⟨fun h => absurd h (by decide +kernel), by decide +kernel⟩

/-- StepNeverFaults: a refused step. -/
theorem witness_refused : step below = .refused .platformAccess := eq_refused_of (by decide +kernel)

/-- In the copy of LEN_257 at distance 1 after one byte. -/
def copying : State :=
  { running .pCopy [] with
    win := { win := [(0, 5#8)], wp := 1#15, hist := 1 }
    eng := { (running .pCopy []).eng with copyLen := 3#9, copyDist := 1#16, outCount := 1#32 } }

/-- StepKeepsInvariant: a copy under way, and its step. -/
theorem copying_inv : copying.Inv where
  cfgOk := by decide +kernel
  winOk := by decide +kernel
  histOk := by decide +kernel
  sessionOk := by decide +kernel
  copyOk := by decide +kernel
  curOk := by decide +kernel
  priorOk := by decide +kernel
  bitsOk := by decide +kernel
  fifoOk := by decide +kernel
  takenOk := by decide +kernel
  fieldOk := by decide +kernel
  dynOk := by decide +kernel
  contOk := by decide +kernel
  outsideRun := by decide +kernel
  runConfig := by decide +kernel
  runRow := by decide +kernel
  rowOk := by decide +kernel
  doneOk := by decide +kernel
  errorOk := ⟨fun h => absurd h (by decide +kernel), by decide +kernel⟩

theorem copying_step : step copying = .next (stateOf (step copying)) := eq_next_of (by decide +kernel)

/-- StateTransitions: RUN entered by START, left by ABORT, left by an error; each step answers a state. -/
theorem witness_transitions :
    (stateOf (step (writing 0x000 1#32 configured))).ses.state = .run
      ∧ (stateOf (step (writing 0x000 2#32 started))).ses.state = .idle
      ∧ (stateOf (step (writing 0x000 4#32 started))).ses.state = .error
      ∧ step (writing 0x000 2#32 started) = .next (stateOf (step (writing 0x000 2#32 started))) :=
  ⟨by decide +kernel, by decide +kernel, by decide +kernel, eq_next_of (by decide +kernel)⟩

/-- QuietMeansWaiting, RowStopsEngine: with a row waiting too. -/
theorem witness_row_waiting :
    rowWaiting.ses.state = .run ∧ rowWaiting.row.rowReady = true ∧ engineIdle rowWaiting = true
      ∧ rowWaiting.eng.needInput = false
      ∧ step (writing 0x018 1#32 rowWaiting) = .next (stateOf (step (writing 0x018 1#32 rowWaiting)))
      ∧ (writing 0x018 1#32 rowWaiting).accessInstrs (rowWaiting.busWrite 0x018 1#32) = [.inDataWrite 1#32] :=
  ⟨by decide +kernel, by decide +kernel, by decide +kernel, by decide +kernel, eq_next_of (by decide +kernel),
    by decide +kernel⟩

/-- ResetHasInvariant, ResetValues: parameters in their ranges. -/
theorem witness_reset : cfg4.wf = true ∧ Config.default.wf = true ∧ 1 ≤ cfg4.inFifoDepth := by decide +kernel

end Sys2Proof.Tests
end

section
/-! What the fixed-width reads do with the unread bits, and which instruction a micro-step of a busy engine fetches
(spec/00_scope.md R14, spec/40_bit_reader.md R201, R202). -/

namespace Sys2Proof.Machine

/-! ### Bits as numbers -/

theorem bitsToNat_append (a b : List Bool) : bitsToNat (a ++ b) = bitsToNat a + 2 ^ a.length * bitsToNat b := by
  induction a with
  | nil => simp [bitsToNat]
  | cons x xs ih =>
    simp only [List.cons_append, bitsToNat, ih, List.length_cons, Nat.pow_succ]
    ring

theorem bitsToNat_lt (a : List Bool) : bitsToNat a < 2 ^ a.length := by
  induction a with
  | nil => simp [bitsToNat]
  | cons x xs ih =>
    have hx := Bool.toNat_le x
    simp only [bitsToNat, List.length_cons, Nat.pow_succ]
    omega

/-- Two bytes in stream order, the first one as the high byte (spec/30_encoding.md R122). -/
theorem zlibValue_bitsToNat {bits : List Bool} (h : 8 ≤ bits.length) :
    zlibValue (bitsToNat bits) = bitsToNat (bits.take 8) * 256 + bitsToNat (bits.drop 8) := by
  have hlen : (bits.take 8).length = 8 := List.length_take_of_le h
  have hlow := bitsToNat_lt (bits.take 8)
  have hsplit := bitsToNat_append (bits.take 8) (bits.drop 8)
  rw [List.take_append_drop] at hsplit
  rw [hlen] at hlow hsplit
  simp only [zlibValue]
  omega

/-! ### Reading a field of fixed width -/

/-- `ReadBit` neither looks at nor changes the engine's registers and the bits already read of a field. -/
theorem readBit_done_with {s t : State} {b : Bool} (h : readBit s = .done b t) (bits : List Bool) (e : Engine) :
    readBit { s with rd := { s.rd with fieldBits := bits }, eng := e }
      = .done b { s with rd := { t.rd with fieldBits := bits }, eng := e } := by
  unfold readBit at h ⊢
  split at h
  · rename_i hn
    split at h
    · split at h <;> cases h
    · rename_i hf
      cases h
      simp only [hn, hf, if_true]
      rfl
  · rename_i hn
    cases h
    simp only [hn, if_false]

theorem readBit_stop_of_pending_nil {s : State} (h : s.rd.pendingBits = []) : ∃ t, readBit s = .stop t := by
  rcases hr : readBit s with ⟨b, t⟩ | t
  · obtain ⟨-, hpend, -⟩ := readBit_done hr
    rw [h] at hpend
    cases hpend
  · exact ⟨t, rfl⟩

/-- While they last, `k` bits read one after another are the first `k` unread ones, and only the reader changes. -/
theorem takeBits_of_le {k : Nat} {s : State} (h : k ≤ s.rd.pendingBits.length) :
    ∃ r : Reader, takeBits k s = some (s.rd.pendingBits.take k, { s with rd := r })
      ∧ r.pendingBits = s.rd.pendingBits.drop k := by
  induction k generalizing s with
  | zero => exact ⟨s.rd, rfl, rfl⟩
  | succ k ih =>
    obtain ⟨b, bs, hpend⟩ := List.exists_cons_of_length_pos (Nat.zero_lt_of_lt h)
    obtain ⟨t, hread⟩ := readBit_of_pending hpend
    obtain ⟨ht, htpend, -⟩ := readBit_done hread
    obtain ⟨-, hbs⟩ := List.cons.inj (hpend.symm.trans htpend)
    rw [hpend, hbs] at h ⊢
    obtain ⟨r, htake, hrest⟩ := ih (Nat.le_of_succ_le_succ h)
    have hframe : ({ t with rd := r } : State) = { s with rd := r } := by rw [ht]
    exact ⟨r, by simp [takeBits, hread, htake, hframe], hrest⟩

/-- `ReadBits` collects the bits that `takeBits` reads, in order, whatever the engine's registers hold. -/
theorem readFieldLoop_takeBits {k m : Nat} {s : State} {bs bits : List Bool} {r : Reader} {e : Engine}
    (h : takeBits k s = some (bs, { s with rd := r })) :
    readFieldLoop (k + m) { s with rd := { s.rd with fieldBits := bits }, eng := e }
      = readFieldLoop m { s with rd := { r with fieldBits := bits ++ bs }, eng := e } := by
  induction k generalizing s bs bits with
  | zero =>
    obtain ⟨hbs, hs⟩ := Prod.mk.inj (Option.some.inj h)
    have hr : s.rd = r := congrArg State.rd hs
    simp [← hbs, hr]
  | succ k ih =>
    simp only [takeBits] at h
    split at h
    · cases h
    · rename_i b t hread
      obtain ⟨⟨cs, u⟩, htake, hpair⟩ := Option.map_eq_some_iff.mp h
      obtain ⟨rfl, rfl⟩ := Prod.mk.inj hpair
      obtain ⟨ht, -⟩ := readBit_done hread
      rw [ht] at htake
      rw [Nat.add_right_comm, readFieldLoop_succ, readBit_done_with hread]
      simpa using ih htake (bits := bits ++ [b])

/-- Where no bit is left, a field that wants one stops as the input ends (spec/40_bit_reader.md R201). -/
theorem readFieldLoop_stop {s : State} (k : Nat) (h : s.rd.pendingBits = []) :
    ∃ t, readFieldLoop (k + 1) s = .stop t ∧ inputEnds s = .next t := by
  obtain ⟨t, hread⟩ := readBit_stop_of_pending_nil h
  obtain ⟨-, -, ht⟩ := readBit_stop hread
  refine ⟨t, by rw [readFieldLoop_succ, hread], ?_⟩
  rw [ht, inputEnds]
  split <;> rfl

/-- A field whose other bits are at hand is read whole, begun or resumed. -/
theorem readField_done {n : Nat} {s : State} (h : n - s.rd.fieldBits.length ≤ s.rd.pendingBits.length) :
    ∃ r : Reader,
      takeBits (n - s.rd.fieldBits.length) s
        = some (s.rd.pendingBits.take (n - s.rd.fieldBits.length), { s with rd := r })
      ∧ r.pendingBits = s.rd.pendingBits.drop (n - s.rd.fieldBits.length)
      ∧ ∀ e : Engine, readField n { s with eng := e }
        = .done (bitsToNat (s.rd.fieldBits ++ s.rd.pendingBits.take (n - s.rd.fieldBits.length)))
          { s with rd := { r with fieldBits := [] }, eng := e } := by
  obtain ⟨r, htake, hrest⟩ := takeBits_of_le h
  exact ⟨r, htake, hrest, fun e => readFieldLoop_takeBits (m := 0) htake⟩

/-- A field in which the input ends keeps the bits there were, and stops. -/
theorem readField_stop {n : Nat} {s : State} (h : s.rd.fieldBits.length + s.rd.pendingBits.length < n) :
    ∃ r : Reader, takeBits s.rd.pendingBits.length s = some (s.rd.pendingBits, { s with rd := r })
      ∧ ∀ e : Engine, ∃ t, readField n { s with eng := e } = .stop t
        ∧ inputEnds { s with rd := { r with fieldBits := s.rd.fieldBits ++ s.rd.pendingBits }, eng := e }
          = .next t := by
  obtain ⟨r, htake, hrest⟩ := takeBits_of_le (Nat.le_refl s.rd.pendingBits.length)
  rw [List.take_length] at htake
  rw [List.drop_length] at hrest
  obtain ⟨m, hm⟩ : ∃ m, n - s.rd.fieldBits.length = s.rd.pendingBits.length + (m + 1) :=
    ⟨n - s.rd.fieldBits.length - s.rd.pendingBits.length - 1, by omega⟩
  refine ⟨r, htake, fun e => ?_⟩
  obtain ⟨t, hstop, hends⟩ :=
    readFieldLoop_stop m (s := { s with rd := { r with fieldBits := s.rd.fieldBits ++ s.rd.pendingBits }, eng := e })
      hrest
  exact ⟨t, by rw [readField, hm]; exact (readFieldLoop_takeBits htake).trans hstop, hends⟩

/-! ### Fetching an element -/

@[simp] theorem fetchRead_done (f : Format) (v : Nat) (t : State) : fetchRead f (.done v t) = fetchDecoded f v t := rfl

@[simp] theorem fetchRead_stop (f : Format) (t : State) : fetchRead f (.stop t) = .internal t := rfl

theorem fetchDecoded_ok {f : Format} {v : Nat} {i : Instr} (h : decodeField f v = .ok i) (t : State) :
    fetchDecoded f v t = .instr i t := by
  simp [fetchDecoded, h]

/-- With no row byte waiting, the phase goes on. -/
theorem fetch_of_no_row {s : State} (h : s.row.pending = none) :
    fetch s = fetchPhase { s with eng := { s.eng with needInput := false } } := by
  simp [fetch, h]

/-- A waiting row byte comes before anything else (spec/43_lz77.md R301). -/
theorem fetch_of_row {s : State} {v : Byte} (h : s.row.pending = some v) :
    fetch s = fetchRow v { s with eng := { s.eng with needInput := false } } := by
  simp [fetch, h]

theorem fetchRow_first {s : State} (v : Byte) (h : s.row.col = 0) :
    fetchRow v s = fetchDecoded .rowFilter v.toNat s := by
  simp [fetchRow, h]

theorem fetchRow_later {s : State} (v : Byte) (h : s.row.col ≠ 0) :
    fetchRow v s = .instr (filterInstr s.row.ftype) s := by
  simp [fetchRow, h]

/-- At a field of `fieldPhases` the fetch reads that field. -/
theorem fetch_field {p : Phase} {f : Format} {n : Nat} {s : State} (hmem : (p, f, n) ∈ fieldPhases)
    (hrow : s.row.pending = none) (hp : s.eng.phase = p) (hrem : p = .pStoredCopy → s.eng.lenRem ≠ 0#16) :
    fetch s = fetchRead f (readField n { s with eng := { s.eng with needInput := false } }) := by
  rw [fetch_of_no_row hrow]
  simp only [fieldPhases, List.mem_cons, List.not_mem_nil, or_false, Prod.mk.injEq] at hmem
  obtain ⟨rfl, rfl, rfl⟩ | ⟨rfl, rfl, rfl⟩ | ⟨rfl, rfl, rfl⟩ | ⟨rfl, rfl, rfl⟩ | ⟨rfl, rfl, rfl⟩ := hmem
  case inr.inr.inl => simp [fetchPhase, hp, hrem rfl]
  all_goals simp [fetchPhase, hp]

theorem fetch_zlib {s : State} (hrow : s.row.pending = none) (hp : s.eng.phase = .pZhdr) :
    fetch s = fetchZlib { s with eng := { s.eng with needInput := false } } := by
  simp [fetch_of_no_row hrow, fetchPhase, hp]

/-- At a coded element the fetch decodes a symbol of the phase's table. -/
theorem fetch_coded {p : Phase} {f : Format} {tbl : HuffTable} {s : State} (hmem : (p, f, tbl) ∈ s.codedPhases)
    (hrow : s.row.pending = none) (hp : s.eng.phase = p) :
    fetch s = fetchRead f (decodeSymbol tbl { s with eng := { s.eng with needInput := false } }) := by
  rw [fetch_of_no_row hrow]
  simp only [State.codedPhases, List.mem_cons, List.not_mem_nil, or_false, Prod.mk.injEq] at hmem
  obtain ⟨rfl, rfl, rfl⟩ | ⟨rfl, rfl, rfl⟩ | ⟨rfl, rfl, rfl⟩ := hmem <;> simp [fetchPhase, hp]

/-- At a symbol's extra bits the fetch goes on with the symbol in `sym`. -/
theorem fetch_extra {p : Phase} {f : Format} {s : State} (hmem : (p, f) ∈ extraPhases)
    (hrow : s.row.pending = none) (hp : s.eng.phase = p) :
    fetch s = fetchDecoded f s.eng.sym.toNat { s with eng := { s.eng with needInput := false } } := by
  rw [fetch_of_no_row hrow]
  simp only [extraPhases, List.mem_cons, List.not_mem_nil, or_false, Prod.mk.injEq] at hmem
  obtain ⟨rfl, rfl⟩ | ⟨rfl, rfl⟩ | ⟨rfl, rfl⟩ := hmem <;> simp [fetchPhase, hp]

theorem fetchZlib_done {s t : State} {raw : Nat} (h : readField 16 s = .done raw t) :
    fetchZlib s = fetchDecoded .zlibHeader (zlibValue raw) t := by
  simp [fetchZlib, h]

theorem fetchZlib_stop {s t : State} (h : readField 16 s = .stop t) : fetchZlib s = .internal t := by
  simp [fetchZlib, h]

/-- A fixed-width read that stops is the whole fetch, at the zlib header as at the other fields. -/
theorem fetch_field_stop {p : Phase} {f : Format} {n : Nat} {s t : State}
    (hmem : (p, f, n) ∈ (.pZhdr, .zlibHeader, 16) :: fieldPhases) (hrow : s.row.pending = none)
    (hp : s.eng.phase = p) (hrem : p = .pStoredCopy → s.eng.lenRem ≠ 0#16)
    (hread : readField n { s with eng := { s.eng with needInput := false } } = .stop t) : fetch s = .internal t := by
  rcases List.mem_cons.mp hmem with heq | hfield
  · cases heq
    rw [fetch_zlib hrow hp, fetchZlib_stop hread]
  · rw [fetch_field hfield hrow hp hrem, hread, fetchRead_stop]

/-! ### The step of a busy engine -/

theorem step_instr {s t : State} {i : Instr} (hbusy : engineIdle s = false) (h : fetch s = .instr i t) :
    step s = exec i t := by
  rw [step_busy hbusy, engineStep, h]

theorem step_internal {s t : State} (hbusy : engineIdle s = false) (h : fetch s = .internal t) :
    step s = .next t := by
  rw [step_busy hbusy, engineStep, h]

theorem step_decoded {s t : State} {f : Format} {v : Nat} {i : Instr} (hbusy : engineIdle s = false)
    (h : fetch s = fetchDecoded f v t) (hdec : decodeField f v = .ok i) : step s = exec i t :=
  step_instr hbusy (h.trans (fetchDecoded_ok hdec t))

/-- Settles O44: a field whose bits are at hand is read whole and decoded, any other stops where the input ends. -/
theorem stepRunsFieldElement : Obligations.StepRunsFieldElement := by
  refine ⟨?field, ?zlib, ?stop⟩
  case field =>
    intro p f n i s hmem hbusy hrow hp hrem k pend _ hk hdec
    obtain ⟨r, htake, hrest, hread⟩ := readField_done hk
    have hfetch := fetch_field hmem hrow hp hrem
    rw [hread, fetchRead_done] at hfetch
    exact ⟨r, htake, hrest, step_decoded hbusy hfetch hdec⟩
  case zlib =>
    intro i s hbusy hrow hp k pend bits _ hk hdec
    obtain ⟨r, htake, hrest, hread⟩ := readField_done hk
    have hlen : 8 ≤ bits.length := by
      simp only [bits, List.length_append, List.length_take_of_le hk, k]
      omega
    have hfetch := fetch_zlib hrow hp
    rw [fetchZlib_done (hread _)] at hfetch
    rw [← zlibValue_bitsToNat hlen] at hdec
    exact ⟨r, htake, hrest, step_decoded hbusy hfetch hdec⟩
  case stop =>
    intro p f n s hmem hbusy hrow hp hrem pend hlt
    obtain ⟨r, htake, hread⟩ := readField_stop hlt
    obtain ⟨t, hstop, hends⟩ := hread { s.eng with needInput := false }
    have hstep : step s = .next t := step_internal hbusy (fetch_field_stop hmem hrow hp hrem hstop)
    exact ⟨r, htake, hstep.trans hends.symm⟩

/-- Settles O45: each kind of element by its fetch, a waiting row byte by its column. -/
theorem stepRunsCodedElement : Obligations.StepRunsCodedElement := by
  intro s hbusy s'
  refine ⟨?done, ?stop, ?extra, ?first, ?later⟩
  case done =>
    intro p f tbl v i t hmem hrow hp hread hdec
    have hfetch := fetch_coded hmem hrow hp
    rw [hread, fetchRead_done] at hfetch
    exact step_decoded hbusy hfetch hdec
  case stop =>
    intro p f tbl t hmem hrow hp hread
    have hfetch := fetch_coded hmem hrow hp
    rw [hread, fetchRead_stop] at hfetch
    exact step_internal hbusy hfetch
  case extra =>
    intro p f i hmem hrow hp hdec
    exact step_decoded hbusy (fetch_extra hmem hrow hp) hdec
  case first =>
    intro v i hrow hcol hdec
    exact step_decoded hbusy ((fetch_of_row hrow).trans (fetchRow_first v hcol)) hdec
  case later =>
    intro v hrow hcol
    exact step_instr hbusy ((fetch_of_row hrow).trans (fetchRow_later v hcol))

end Sys2Proof.Machine
end

section
/-! What a read of bits keeps and how it stops (spec/40_bit_reader.md R201, R202; spec/42_huffman.md R268), whether it is
begun or resumed. -/

namespace Sys2Proof.Machine

/-- The Bit Reader's part of `State.Inv`, for a FIFO of `depth` bytes. -/
structure Reader.Ok (depth : Nat) (r : Reader) : Prop where
  bits : r.nbits ≤ 7 ∧ r.curByte.toNat < 2 ^ r.nbits
  fifo : r.fifo.length ≤ depth
  taken : r.inCount = BitVec.ofNat 32 r.bytesTaken ∧ r.nbits ≤ 8 * r.bytesTaken

/-- A read that stops in `u` answers `t`: an error is raised there, or the engine is suspended there for input. -/
def Stopped (u t : State) : Prop := (∃ c, t = raise c u) ∨ t = { u with eng := { u.eng with needInput := true } }

/-! ### One bit -/

theorem readBit_done_ok {d : Nat} {s t : State} {b : Bool} (h : readBit s = .done b t) (hr : s.rd.Ok d) :
    t.rd.Ok d := by
  obtain ⟨-, htaken, hcount⟩ := readBit_bitPosition h hr.taken.2
  obtain ⟨hbits, hcur⟩ := hr.bits
  have hfifo := hr.fifo
  unfold readBit at h
  split at h
  · split at h
    · split at h <;> cases h
    · rename_i b' rest hf
      cases h
      have hlt := b'.isLt
      have hhalf := toNat_shift_one b'
      rw [hf, List.length_cons] at hfifo
      refine ⟨⟨Nat.le_refl 7, ?_⟩, ?_, hcount hr.taken.1, htaken⟩ <;> simp only [Reader.takeByte] <;> omega
  · rename_i hn
    cases h
    obtain ⟨n, hn'⟩ := Nat.exists_eq_succ_of_ne_zero hn
    have hhalf := toNat_shift_one s.rd.curByte
    rw [hn', Nat.pow_succ] at hcur
    refine ⟨⟨?_, ?_⟩, hfifo, hcount hr.taken.1, htaken⟩
    · simp only
      omega
    · simp only [hn', Nat.succ_eq_add_one, Nat.add_sub_cancel]
      omega

theorem readBit_stopped {s t : State} (h : readBit s = .stop t) : Stopped s t := by
  obtain ⟨-, -, rfl⟩ := readBit_stop h
  by_cases he : s.rd.eoi
  · exact .inl ⟨.truncated, if_pos he⟩
  · exact .inr (if_neg he)

/-! ### A field -/

theorem readFieldLoop_done {k v : Nat} {s t : State} (h : readFieldLoop k s = .done v t) :
    v < 2 ^ (s.rd.fieldBits.length + k)
      ∧ ∃ r : Reader, t = { s with rd := r } ∧ r.fieldBits = [] ∧ ∀ d, s.rd.Ok d → r.Ok d := by
  induction k generalizing s with
  | zero =>
    cases h
    exact ⟨bitsToNat_lt _, _, rfl, rfl, fun d hr => ⟨hr.bits, hr.fifo, hr.taken⟩⟩
  | succ k ih =>
    rw [readFieldLoop_succ] at h
    split at h
    · cases h
    · rename_i b u hread
      obtain ⟨hu, -, hfield, -⟩ := readBit_done hread
      obtain ⟨hv, r, ht, hr, hok⟩ := ih h
      refine ⟨?_, r, ?_, hr, fun d hd => ?_⟩
      · simpa [hfield, Nat.add_assoc, Nat.add_comm 1] using hv
      · rw [ht, hu]
      · have hu' := readBit_done_ok hread hd
        exact hok d ⟨hu'.bits, hu'.fifo, hu'.taken⟩

theorem readFieldLoop_stopped {k : Nat} {s t : State} (h : readFieldLoop k s = .stop t) :
    ∃ r : Reader, Stopped { s with rd := r } t ∧ r.fieldBits.length < s.rd.fieldBits.length + k
      ∧ ∀ d, s.rd.Ok d → r.Ok d := by
  induction k generalizing s with
  | zero => cases h
  | succ k ih =>
    rw [readFieldLoop_succ] at h
    split at h
    · rename_i u hread
      cases h
      exact ⟨s.rd, readBit_stopped hread, by omega, fun d hd => hd⟩
    · rename_i b u hread
      obtain ⟨hu, -, hfield, -⟩ := readBit_done hread
      obtain ⟨r, ht, hr, hok⟩ := ih h
      refine ⟨r, ?_, ?_, fun d hd => ?_⟩
      · rw [hu] at ht
        exact ht
      · simpa [hfield, Nat.add_assoc, Nat.add_comm 1] using hr
      · have hu' := readBit_done_ok hread hd
        exact hok d ⟨hu'.bits, hu'.fifo, hu'.taken⟩

/-- A completed field of which no more bits had been read than it has: its number, and only the reader has changed. -/
theorem readField_done_ok {n v : Nat} {s t : State} (h : readField n s = .done v t)
    (hn : s.rd.fieldBits.length ≤ n) :
    v < 2 ^ n ∧ ∃ r : Reader, t = { s with rd := r } ∧ r.fieldBits = [] ∧ ∀ d, s.rd.Ok d → r.Ok d := by
  have := readFieldLoop_done h
  rwa [Nat.add_sub_cancel' hn] at this

/-- A field that stops is not complete, and only the reader has changed where it stops. -/
theorem readField_stopped {n : Nat} {s t : State} (h : readField n s = .stop t) :
    ∃ r : Reader, Stopped { s with rd := r } t ∧ r.fieldBits.length < n ∧ ∀ d, s.rd.Ok d → r.Ok d := by
  obtain ⟨r, ht, hr, hok⟩ := readFieldLoop_stopped h
  by_cases hn : s.rd.fieldBits.length ≤ n
  · exact ⟨r, ht, by omega, hok⟩
  · have hzero : n - s.rd.fieldBits.length = 0 := by omega
    rw [readField, hzero] at h
    cases h

/-! ### A Huffman code -/

theorem HuffTable.sound_iff {n : Nat} {t : HuffTable} :
    t.sound n = true ↔ t.count.length = 16 ∧ t.count.getD 0 0 = 0 ∧ t.symbol.length = t.count.sum
      ∧ ∀ x ∈ t.symbol, x < n := by
  simp [HuffTable.sound, and_assoc]

theorem Traversal.within_iff {t : HuffTable} {r : Traversal} :
    r.within t = true ↔ 1 ≤ r.len ∧ r.first ≤ r.code ∧ r.index = (t.count.take r.len).sum := by
  simp [Traversal.within, and_assoc]

theorem sum_take_succ_getD (l : List Nat) (k : Nat) : (l.take (k + 1)).sum = (l.take k).sum + l.getD k 0 := by
  rw [List.take_add_one, List.sum_append, List.getD_eq_getElem?_getD]
  cases l[k]? <;> simp

theorem sum_take_le (l : List Nat) (k : Nat) : (l.take k).sum ≤ l.sum := by
  rw [← List.sum_take_add_sum_drop l k]
  exact Nat.le_add_right _ _

/-- At the beginning of `Decode` no code is shorter than the ones to come. -/
theorem Traversal.fresh_within {n : Nat} {t : HuffTable} (h : t.sound n = true) :
    Traversal.fresh.within t = true := by
  obtain ⟨-, hzero, -⟩ := HuffTable.sound_iff.mp h
  have hsum := sum_take_succ_getD t.count 0
  simp only [hzero, List.take_zero, List.sum_nil] at hsum
  exact Traversal.within_iff.mpr ⟨Nat.le_refl 1, Nat.le_refl 0, hsum.symm⟩

/-- The code matches at this length: the symbol it stands for is one of the table's. -/
theorem symbol_lt_of_match {n code : Nat} {t : HuffTable} {r : Traversal} (hs : t.sound n = true)
    (hr : r.within t = true) (hcode : r.first ≤ code) (hlt : code < r.first + t.count.getD r.len 0) :
    t.symbol.getD (r.index + (code - r.first)) noSymbol < n := by
  obtain ⟨-, -, hlen, hsym⟩ := HuffTable.sound_iff.mp hs
  obtain ⟨-, -, hindex⟩ := Traversal.within_iff.mp hr
  have hsum := sum_take_succ_getD t.count r.len
  have hle := sum_take_le t.count (r.len + 1)
  have hk : r.index + (code - r.first) < t.symbol.length := by omega
  rw [List.getD_eq_getElem _ _ hk]
  exact hsym _ (List.getElem_mem hk)

/-- No code matches at this length: the registers go on to the next one (the invariant of spec/42_huffman.md R268). -/
theorem within_next {code : Nat} {t : HuffTable} {r : Traversal} (hr : r.within t = true)
    (hge : r.first + t.count.getD r.len 0 ≤ code) :
    Traversal.within t
      { code := code * 2, first := (r.first + t.count.getD r.len 0) * 2, index := r.index + t.count.getD r.len 0
        len := r.len + 1 } = true := by
  obtain ⟨-, -, hindex⟩ := Traversal.within_iff.mp hr
  refine Traversal.within_iff.mpr ⟨Nat.le_add_left 1 _, Nat.mul_le_mul_right 2 hge, ?_⟩
  rw [sum_take_succ_getD, ← hindex]

theorem decodeLoop_done {k v : Nat} {tbl : HuffTable} {s t : State} (h : decodeLoop tbl k s = .done v t) :
    (∀ n, tbl.sound n = true → s.trav.within tbl = true → v < n)
      ∧ ∃ r : Reader, t = { s with rd := r, trav := Traversal.fresh } ∧ r.fieldBits = s.rd.fieldBits
        ∧ ∀ d, s.rd.Ok d → r.Ok d := by
  induction k generalizing s with
  | zero => cases h
  | succ k ih =>
    rw [decodeLoop_succ] at h
    split at h
    · cases h
    · rename_i b u hread
      obtain ⟨hu, -, hfield, -⟩ := readBit_done hread
      have htrav : u.trav = s.trav := by rw [hu]
      rw [htrav] at h
      split at h
      · rename_i hlt
        cases h
        refine ⟨fun n hs hw => ?_, u.rd, by rw [hu], hfield, fun d => readBit_done_ok hread⟩
        have hcode := (Traversal.within_iff.mp hw).2.1
        exact symbol_lt_of_match hs hw (by omega) hlt
      · rename_i hge
        obtain ⟨hv, r, ht, hr, hok⟩ := ih h
        refine ⟨fun n hs hw => hv n hs (within_next hw (by omega)), r, ?_, hr.trans hfield, fun d hd => ?_⟩
        · rw [ht, hu]
        · have hu' := readBit_done_ok hread hd
          exact hok d hu'

theorem decodeLoop_stopped {k : Nat} {tbl : HuffTable} {s t : State} (h : decodeLoop tbl k s = .stop t) :
    ∃ (r : Reader) (tr : Traversal), Stopped { s with rd := r, trav := tr } t ∧ r.fieldBits = s.rd.fieldBits
      ∧ (s.trav.within tbl = true → tr.within tbl = true) ∧ ∀ d, s.rd.Ok d → r.Ok d := by
  induction k generalizing s with
  | zero =>
    cases h
    exact ⟨s.rd, s.trav, .inl ⟨.invalidCode, rfl⟩, rfl, id, fun d => id⟩
  | succ k ih =>
    rw [decodeLoop_succ] at h
    split at h
    · rename_i u hread
      cases h
      exact ⟨s.rd, s.trav, readBit_stopped hread, rfl, id, fun d => id⟩
    · rename_i b u hread
      obtain ⟨hu, -, hfield, -⟩ := readBit_done hread
      have htrav : u.trav = s.trav := by rw [hu]
      rw [htrav] at h
      split at h
      · cases h
      · rename_i hge
        obtain ⟨r, tr, ht, hr, hw, hok⟩ := ih h
        refine ⟨r, tr, ?_, hr.trans hfield, fun hs => hw (within_next hs (by omega)), fun d hd => ?_⟩
        · rw [hu] at ht
          exact ht
        · have hu' := readBit_done_ok hread hd
          exact hok d hu'

end Sys2Proof.Machine
end

section
/-! The host's instructions apart from the stream's, what an instruction of the stream leaves alone, and the induction
over what happens in one step (spec/20_memory.md R86, spec/48_host_interface.md R444, R455). -/

namespace Sys2Proof.Machine

/-! ### The host's instructions -/

/-- The instructions that a host access stands for (spec/30_encoding.md R136). -/
inductive HostInstr : Instr → Prop where
  | abort : HostInstr .ctrlAbort
  | start : HostInstr .ctrlStart
  | rowAck : HostInstr .ctrlRowAck
  | eoi : HostInstr .ctrlEoi
  | inData (data : Word) : HostInstr (.inDataWrite data)
  | cfgWidth (data : Word) : HostInstr (.cfgWidthWrite data)
  | cfgHeight (data : Word) : HostInstr (.cfgHeightWrite data)
  | cfgBpp (data : Word) : HostInstr (.cfgBppWrite data)
  | regRead (offset : Nat) : HostInstr (.regRead offset)
  | rowRead (w : AccessWidth) (offset : Nat) : HostInstr (.rowRead w offset)
  | ignoredWrite (w : AccessWidth) (offset : Nat) (data : Word) : HostInstr (.ignoredWrite w offset data)
  | busError (a : HostAccess) : HostInstr (.busError a)

/-- What a CTRL write can stand for: ABORT or nothing alone, or a list of the other three commands. -/
theorem decodeCtrl_cases (data : Word) :
    decodeCtrl data = [.ctrlAbort] ∨ decodeCtrl data = [.ignoredWrite .b4 0x000 data]
      ∨ ∀ i ∈ decodeCtrl data, i = .ctrlStart ∨ i = .ctrlRowAck ∨ i = .ctrlEoi := by
  unfold decodeCtrl
  split
  · exact .inl rfl
  · split
    · exact .inr (.inl rfl)
    · refine .inr (.inr fun i hi => ?_)
      simp only [List.mem_append, List.mem_ite_nil_right, List.mem_singleton] at hi
      obtain (⟨-, h⟩ | ⟨-, h⟩) | ⟨-, h⟩ := hi
      · exact .inl h
      · exact .inr (.inl h)
      · exact .inr (.inr h)

/-- An access is a CTRL write, or it stands for one instruction that is no command. -/
theorem decodeAccess_cases (w : Nat) (a : HostAccess) :
    (∃ data, decodeAccess w a = decodeCtrl data)
      ∨ ∃ i, decodeAccess w a = [i] ∧ HostInstr i ∧ i ≠ .ctrlStart ∧ i ≠ .ctrlAbort := by
  unfold decodeAccess
  split
  · exact .inr ⟨_, rfl, .busError a, nofun, nofun⟩
  · split
    · split
      · exact .inr ⟨_, rfl, .regRead _, nofun, nofun⟩
      · exact .inr ⟨_, rfl, .rowRead _ _, nofun, nofun⟩
    · rename_i data _
      split
      · exact .inl ⟨data, rfl⟩
      split
      · exact .inr ⟨_, rfl, .cfgWidth data, nofun, nofun⟩
      split
      · exact .inr ⟨_, rfl, .cfgHeight data, nofun, nofun⟩
      split
      · exact .inr ⟨_, rfl, .cfgBpp data, nofun, nofun⟩
      split
      · exact .inr ⟨_, rfl, .inData data, nofun, nofun⟩
      · exact .inr ⟨_, rfl, .ignoredWrite _ _ data, nofun, nofun⟩

theorem decodeAccess_host {w : Nat} {a : HostAccess} {i : Instr} (h : i ∈ decodeAccess w a) : HostInstr i := by
  obtain ⟨data, hd⟩ | ⟨j, hj, hhost, -⟩ := decodeAccess_cases w a
  · rw [hd] at h
    obtain hc | hc | hc := decodeCtrl_cases data
    · rw [hc, List.mem_singleton] at h
      exact h ▸ .abort
    · rw [hc, List.mem_singleton] at h
      exact h ▸ .ignoredWrite _ _ _
    · obtain rfl | rfl | rfl := hc i h
      · exact .start
      · exact .rowAck
      · exact .eoi
  · rw [hj, List.mem_singleton] at h
    exact h ▸ hhost

/-- An access that holds START holds nothing but START, ROW_ACK and EOI. -/
theorem decodeAccess_of_start {w : Nat} {a : HostAccess} (h : Instr.ctrlStart ∈ decodeAccess w a) :
    ∀ i ∈ decodeAccess w a, i = .ctrlStart ∨ i = .ctrlRowAck ∨ i = .ctrlEoi := by
  obtain ⟨data, hd⟩ | ⟨j, hj, -, hstart, -⟩ := decodeAccess_cases w a
  · rw [hd] at h ⊢
    obtain hc | hc | hc := decodeCtrl_cases data
    · rw [hc, List.mem_singleton] at h
      cases h
    · rw [hc, List.mem_singleton] at h
      cases h
    · exact hc
  · rw [hj, List.mem_singleton] at h
    exact absurd h.symm hstart

/-! ### The stream's instructions -/

theorem decodeField_ok {f : Format} {v : Nat} {i : Instr} (h : decodeField f v = .ok i) : decodeRow f v = some i := by
  unfold decodeField at h
  split at h
  · split at h
    · rename_i hrow
      cases h
      exact hrow
    · cases h
  · cases h

theorem not_host_of_mem_litlenTail {i : Instr} (h : i ∈ litlenTail) : ¬ HostInstr i := by
  intro hi
  cases hi <;> simp [litlenTail] at h

theorem not_host_of_mem_distRows {i : Instr} (h : i ∈ distRows) : ¬ HostInstr i := by
  intro hi
  cases hi <;> simp [distRows] at h

/-- No stream element is a host's instruction. -/
theorem decodeRow_not_host {f : Format} {v : Nat} {i : Instr} (h : decodeRow f v = some i) : ¬ HostInstr i := by
  cases f
  case litlenSymbol =>
    simp only [decodeRow, decodeLitlen] at h
    split_ifs at h
    · cases h; nofun
    · cases h; nofun
    · exact not_host_of_mem_litlenTail (List.mem_of_getElem? h)
  case distSymbol => exact not_host_of_mem_distRows (List.mem_of_getElem? h)
  case clenSymbol =>
    simp only [decodeRow, decodeClen] at h
    split_ifs at h <;> cases h <;> nofun
  case storedPayload => cases h; nofun
  case cllField => cases h; nofun
  all_goals
    simp only [decodeRow, decodeZlib, decodeBlock, decodeStored, decodeDyn, decodeFilter, Option.some.injEq] at h
    split_ifs at h <;> cases h <;> nofun

theorem filterInstr_not_host (t : FilterType) : ¬ HostInstr (filterInstr t) := by
  cases t <;> nofun

/-! ### What the stream's instructions leave alone -/

/-- From `s` to `t` the engine has worked: the parameters, the CFG registers, the host and the latched configuration
are as they were, and the session goes on, is DONE, or is in ERROR. -/
structure EngineFrame (s t : State) : Prop where
  cfg : t.cfg = s.cfg
  regs : t.regs = s.regs
  host : t.host = s.host
  config : t.ses = { s.ses with state := t.ses.state }
  state : t.ses.state = s.ses.state ∨ t.ses.state = .done ∨ t.ses.state = .error

namespace EngineFrame

theorem of_ses {s t : State} (hcfg : t.cfg = s.cfg) (hregs : t.regs = s.regs) (hhost : t.host = s.host)
    (hses : t.ses = s.ses) : EngineFrame s t :=
  ⟨hcfg, hregs, hhost, by rw [hses], .inl (by rw [hses])⟩

theorem refl (s : State) : EngineFrame s s := of_ses rfl rfl rfl rfl

theorem trans {s t u : State} (h : EngineFrame s t) (h' : EngineFrame t u) : EngineFrame s u where
  cfg := h'.cfg.trans h.cfg
  regs := h'.regs.trans h.regs
  host := h'.host.trans h.host
  config := by rw [h'.config, h.config]
  state := by
    obtain hu | hu := h'.state
    · rw [hu]
      exact h.state
    · exact .inr hu

/-- The frame from `s`, where `t` is `s` but for fields it does not speak of. -/
theorem after {s t u : State} (h : EngineFrame t u) (hcfg : t.cfg = s.cfg) (hregs : t.regs = s.regs)
    (hhost : t.host = s.host) (hses : t.ses = s.ses) : EngineFrame s u :=
  trans (of_ses hcfg hregs hhost hses) h

theorem raise (c : Cause) (s : State) : EngineFrame s (raise c s) := ⟨rfl, rfl, rfl, rfl, .inr (.inr rfl)⟩

theorem stopped {u t : State} (h : Stopped u t) : EngineFrame u t := by
  obtain ⟨c, rfl⟩ | rfl := h
  · exact raise c u
  · exact of_ses rfl rfl rfl rfl

theorem readField_done {n v : Nat} {s t : State} (h : readField n s = .done v t) : EngineFrame s t := by
  obtain ⟨-, r, rfl, -⟩ := readFieldLoop_done h
  exact of_ses rfl rfl rfl rfl

theorem readField_stop {n : Nat} {s t : State} (h : readField n s = .stop t) : EngineFrame s t := by
  obtain ⟨r, ht, -⟩ := readField_stopped h
  exact (stopped ht).after rfl rfl rfl rfl

theorem decodeSymbol_done {tbl : HuffTable} {v : Nat} {s t : State} (h : decodeSymbol tbl s = .done v t) :
    EngineFrame s t := by
  obtain ⟨-, r, rfl, -⟩ := decodeLoop_done h
  exact of_ses rfl rfl rfl rfl

theorem decodeSymbol_stop {tbl : HuffTable} {s t : State} (h : decodeSymbol tbl s = .stop t) : EngineFrame s t := by
  obtain ⟨r, tr, ht, -⟩ := decodeLoop_stopped h
  exact (stopped ht).after rfl rfl rfl rfl

theorem endOfStream (s : State) : EngineFrame s (endOfStream s) := by
  unfold Machine.endOfStream
  split
  · exact raise _ s
  · exact ⟨rfl, rfl, rfl, rfl, .inr (.inl rfl)⟩

theorem blockEnd (s : State) : EngineFrame s (blockEnd s) := by
  unfold Machine.blockEnd
  split
  · exact endOfStream s
  · exact of_ses rfl rfl rfl rfl

theorem emit (v : Byte) (s : State) : EngineFrame s (emit v s) := of_ses rfl rfl rfl rfl

theorem copyByte (s : State) : EngineFrame s (copyByte s) := by
  unfold Machine.copyByte
  split <;> exact of_ses rfl rfl rfl rfl

theorem filterByte (t : FilterType) (p : Byte → Byte → Byte → Byte) (s : State) :
    EngineFrame s (filterByte t p s) := by
  unfold Machine.filterByte
  split
  · exact refl s
  · split <;> exact of_ses rfl rfl rfl rfl

theorem buildBlockTables (s : State) : EngineFrame s (buildBlockTables s) := by
  unfold Machine.buildBlockTables
  split
  · exact raise _ s
  · dsimp only
    split
    · split
      · exact of_ses rfl rfl rfl rfl
      · exact (raise _ _).after rfl rfl rfl rfl
    · exact (raise _ _).after rfl rfl rfl rfl

theorem appendLengths (n : Nat) (v : BitVec 4) (s : State) : EngineFrame s (appendLengths n v s) := by
  unfold Machine.appendLengths
  dsimp only
  split
  · exact of_ses rfl rfl rfl rfl
  · exact (buildBlockTables _).after rfl rfl rfl rfl

theorem repeatLengths (n : Nat) (v : BitVec 4) (s : State) : EngineFrame s (repeatLengths n v s) := by
  unfold Machine.repeatLengths
  split
  · exact raise _ s
  · exact appendLengths n v s

theorem repeatSymbol (sym : BitVec 9) (base extra : Nat) (v : BitVec 4) (s : State) :
    EngineFrame s (repeatSymbol sym base extra v s) := by
  unfold Machine.repeatSymbol
  refine after (t := { s with eng := { s.eng with phase := .pDynExtra, sym := sym } }) ?_ rfl rfl rfl rfl
  split
  · rename_i hread
    exact readField_stop hread
  · rename_i hread
    exact trans (readField_done hread) (repeatLengths _ _ _)

theorem lengthSymbol (sym : BitVec 9) (base extra : Nat) (s : State) :
    EngineFrame s (lengthSymbol sym base extra s) := by
  unfold Machine.lengthSymbol
  refine after (t := { s with eng := { s.eng with phase := .pLenExtra, sym := sym } }) ?_ rfl rfl rfl rfl
  split
  · rename_i hread
    exact readField_stop hread
  · rename_i hread
    exact trans (readField_done hread) (of_ses rfl rfl rfl rfl)

theorem checkDistance (s : State) : EngineFrame s (checkDistance s) := by
  unfold Machine.checkDistance
  split
  · exact raise _ s
  · exact of_ses rfl rfl rfl rfl

theorem distanceSymbol (sym : BitVec 9) (base extra : Nat) (s : State) :
    EngineFrame s (distanceSymbol sym base extra s) := by
  unfold Machine.distanceSymbol
  refine after (t := { s with eng := { s.eng with phase := .pDistExtra, sym := sym } }) ?_ rfl rfl rfl rfl
  split
  · rename_i hread
    exact readField_stop hread
  · rename_i hread
    exact trans (readField_done hread) ((checkDistance _).after rfl rfl rfl rfl)

theorem execCll {length : BitVec 3} {s t : State} (h : execCll length s = .next t) : EngineFrame s t := by
  unfold Machine.execCll at h
  dsimp only at h
  split at h
  · cases h
    exact of_ses rfl rfl rfl rfl
  · split at h
    · cases h
      exact of_ses rfl rfl rfl rfl
    · cases h
      exact (raise _ _).after rfl rfl rfl rfl

theorem execClRepeatPrev {s t : State} (h : execClRepeatPrev s = .next t) : EngineFrame s t := by
  unfold Machine.execClRepeatPrev at h
  split at h
  · cases h
    exact raise _ s
  · cases h
    exact repeatSymbol _ _ _ _ s

/-- Every instruction of the stream keeps the frame, by the operation it calls. -/
theorem exec {i : Instr} {s t : State} (hi : ¬ HostInstr i) (h : exec i s = .next t) : EngineFrame s t := by
  cases i
  case ctrlAbort => exact absurd .abort hi
  case ctrlStart => exact absurd .start hi
  case ctrlRowAck => exact absurd .rowAck hi
  case ctrlEoi => exact absurd .eoi hi
  case inDataWrite => exact absurd (.inData _) hi
  case cfgWidthWrite => exact absurd (.cfgWidth _) hi
  case cfgHeightWrite => exact absurd (.cfgHeight _) hi
  case cfgBppWrite => exact absurd (.cfgBpp _) hi
  case regRead => exact absurd (.regRead _) hi
  case rowRead => exact absurd (.rowRead _ _) hi
  case ignoredWrite => exact absurd (.ignoredWrite _ _ _) hi
  case busError => exact absurd (.busError _) hi
  case cll => exact execCll h
  case clRepeatPrev => exact execClRepeatPrev h
  case clRepeatZero3 | clRepeatZero11 => cases h; exact repeatSymbol _ _ _ _ s
  case clLen => cases h; exact appendLengths _ _ s
  case eob => cases h; exact blockEnd s
  case lit | storedByte => cases h; exact (emit _ _).after rfl rfl rfl rfl
  case filtNone | filtSub | filtUp | filtAvg | filtPaeth => cases h; exact filterByte _ _ s
  case zlibHdr | blkStored | blkFixed | blkDynamic | storedHdr | dynHdr => cases h; exact of_ses rfl rfl rfl rfl
  case blkReserved | dynHdrBadCounts => cases h; exact (raise _ _).after rfl rfl rfl rfl
  case zlibHdrBadCm | zlibHdrBadCinfo | zlibHdrBadFcheck | zlibHdrFdict | storedHdrBadNlen | litlenRsv286
      | litlenRsv287 | distRsv30 | distRsv31 | filtInvalid =>
    cases h; exact raise _ s
  case len257 | len258 | len259 | len260 | len261 | len262 | len263 | len264 | len265 | len266 | len267 | len268
      | len269 | len270 | len271 | len272 | len273 | len274 | len275 | len276 | len277 | len278 | len279 | len280
      | len281 | len282 | len283 | len284 | len285 =>
    cases h; exact lengthSymbol _ _ _ s
  all_goals cases h; exact distanceSymbol _ _ _ s

end EngineFrame

/-! ### The micro-step -/

/-- What the fetch leaves alone, and that it fetches no instruction of the host. -/
def Fetch.FramedBy (s : State) : Fetch → Prop
  | .instr i u => ¬ HostInstr i ∧ EngineFrame s u
  | .internal t => EngineFrame s t
  | .noRow _ _ => True

theorem fetchDecoded_framed {f : Format} {v : Nat} {s u : State} (h : EngineFrame s u) :
    (fetchDecoded f v u).FramedBy s := by
  unfold fetchDecoded
  split
  · rename_i hdec
    exact ⟨decodeRow_not_host (decodeField_ok hdec), h⟩
  · trivial

theorem fetchRead_field_framed (f : Format) (n : Nat) (s : State) : (fetchRead f (readField n s)).FramedBy s := by
  cases hread : readField n s with
  | stop t => exact EngineFrame.readField_stop hread
  | done v t => exact fetchDecoded_framed (EngineFrame.readField_done hread)

theorem fetchRead_symbol_framed (f : Format) (tbl : HuffTable) (s : State) :
    (fetchRead f (decodeSymbol tbl s)).FramedBy s := by
  cases hread : decodeSymbol tbl s with
  | stop t => exact EngineFrame.decodeSymbol_stop hread
  | done v t => exact fetchDecoded_framed (EngineFrame.decodeSymbol_done hread)

theorem fetchZlib_framed (s : State) : (fetchZlib s).FramedBy s := by
  cases hread : readField 16 s with
  | stop t =>
    rw [fetchZlib_stop hread]
    exact EngineFrame.readField_stop hread
  | done v t =>
    rw [fetchZlib_done hread]
    exact fetchDecoded_framed (EngineFrame.readField_done hread)

theorem fetchPhase_framed (s : State) : (fetchPhase s).FramedBy s := by
  unfold fetchPhase
  split
  case h_1 => exact EngineFrame.refl s
  case h_2 => exact fetchZlib_framed s
  case h_5 =>
    split
    · exact EngineFrame.blockEnd s
    · exact fetchRead_field_framed _ _ s
  case h_8 | h_10 | h_12 => exact fetchRead_symbol_framed _ _ s
  case h_9 | h_11 | h_13 => exact fetchDecoded_framed (EngineFrame.refl s)
  case h_14 => exact EngineFrame.copyByte s
  all_goals exact fetchRead_field_framed _ _ s

theorem fetchRow_framed (v : Byte) (s : State) : (fetchRow v s).FramedBy s := by
  unfold fetchRow
  split
  · exact fetchDecoded_framed (EngineFrame.refl s)
  · exact ⟨filterInstr_not_host _, EngineFrame.refl s⟩

theorem engineStep_framed {s t : State} (h : engineStep exec s = .next t) : EngineFrame s t := by
  have hf : (fetch s).FramedBy { s with eng := { s.eng with needInput := false } } := by
    unfold fetch
    dsimp only
    split
    · exact fetchRow_framed _ _
    · exact fetchPhase_framed _
  refine EngineFrame.after (t := { s with eng := { s.eng with needInput := false } }) ?_ rfl rfl rfl rfl
  obtain ⟨i, u, hi, hex⟩ | hi := engineStep_next_iff.mp h
  · rw [hi] at hf
    exact hf.2.trans (EngineFrame.exec hf.1 hex)
  · rw [hi] at hf
    exact hf

/-! ### The induction over one step -/

section
variable {P : State → Prop} (micro : ∀ s t, P s → engineIdle s = false → engineStep exec s = .next t → P t)
include micro

theorem runSteps_induct {n : Nat} {s t : State} (hs : P s) (h : runSteps exec n s = .next t) : P t := by
  induction n generalizing s with
  | zero =>
    cases h
    exact hs
  | succ n ih =>
    cases hidle : engineIdle s with
    | true =>
      rw [runSteps_idle _ hidle] at h
      cases h
      exact hs
    | false =>
      rw [runSteps_busy _ hidle] at h
      obtain ⟨u, hstep, hrun⟩ := andThen_next_iff.mp h
      exact ih (micro s u hs hidle hstep) hrun

/-- What the instructions of an access and the micro-steps keep, the whole access keeps. -/
theorem hostOperations_induct {is : List Instr} (host : ∀ i ∈ is, ∀ s t, P s → exec i s = .next t → P t)
    {s t : State} (hs : P s) (h : hostOperations exec is s = .next t) : P t := by
  induction is generalizing s with
  | nil =>
    cases h
    exact hs
  | cons i is ih =>
    obtain ⟨u, hop, hrest⟩ := andThen_next_iff.mp h
    refine ih (fun j hj => host j (List.mem_cons_of_mem i hj)) ?_ hrest
    have hi := host i List.mem_cons_self
    unfold hostOperation at hop
    split at hop
    · exact hi s u hs hop
    · obtain ⟨w, hex, hrun⟩ := andThen_next_iff.mp hop
      exact runSteps_induct micro (hi s w hs hex) hrun

/-- What micro-steps, the host's instructions and changes of the host's own fields keep, every step keeps. -/
theorem step_induct (host : ∀ i s t, HostInstr i → P s → exec i s = .next t → P t)
    (port : ∀ s p, P s → P { s with host := p }) {s t : State} (hs : P s) (h : step s = .next t) : P t := by
  cases hidle : engineIdle s with
  | false =>
    rw [step_busy hidle] at h
    exact micro s t hs hidle h
  | true =>
    cases hq : s.host.queue with
    | nil =>
      simp only [step, stepWith, hidle, hq, if_true] at h
      cases h
      exact hs
    | cons a rest =>
      rw [step_access hidle hq, hostAccess] at h
      split at h
      · unfold undecoded at h
        split at h
        · cases h
          exact port s _ hs
        · cases h
      · exact hostOperations_induct micro (fun i hi u w => host i u w (decodeAccess_host hi)) (port s _ hs) h

end

end Sys2Proof.Machine
end

section
/-! The invariant in its two parts for an engine at work: what holds at every phase (`State.Running`) and what depends on
the phase (`State.PhaseOk`); and what keeps each of them. -/

namespace Sys2Proof.Machine

/-! ### The ranges -/

/-- The part of `State.Inv` that speaks neither of the session state nor of the phase. -/
structure State.Ranges (s : State) : Prop where
  cfgOk : s.cfg.wf = true
  winOk : Memory.wf 32768 s.win.win = true
  histOk : s.win.hist ≤ 32768
  sessionOk : s.win.hist < 32768 → s.win.wp.toNat = s.win.hist ∧ s.eng.outCount = BitVec.ofNat 32 s.win.hist
  copyRange : s.eng.copyLen.toNat ≤ 258 ∧ s.eng.copyDist.toNat ≤ 32768
  curOk : Memory.wf s.cfg.maxRowBytes s.row.cur = true
  priorOk : Memory.wf s.cfg.maxRowBytes s.row.prior = true
  readerOk : s.rd.Ok s.cfg.inFifoDepth
  fieldRange : s.rd.fieldBits.length ≤ 32
  dynOk : s.dyn.cl.length = 19 ∧ s.dyn.hlit ≤ 288 ∧ s.dyn.hdist ≤ 32

theorem extraOf_le {rows : List (Instr × Nat × Nat × Nat)} {n : Nat} (h : ∀ r ∈ rows, r.2.2.2 ≤ n) (sym : Nat) :
    extraOf rows sym ≤ n := by
  induction rows with
  | nil => exact Nat.zero_le n
  | cons r rest ih =>
    obtain ⟨hr, hrest⟩ := List.forall_mem_cons.mp h
    unfold extraOf
    split
    · exact hr
    · exact ih hrest

theorem repeatExtra_le (sym : Nat) : repeatExtra sym ≤ 7 := by
  unfold repeatExtra
  split_ifs <;> omega

/-- No field of any phase has more than 32 bits. -/
theorem fieldLimit_le (s : State) : s.fieldLimit ≤ 32 := by
  unfold State.fieldLimit
  split
  case h_5 => split <;> omega
  case h_9 => exact (repeatExtra_le _).trans (by omega)
  case h_11 => exact (extraOf_le (n := 5) (by decide) _).trans (by omega)
  case h_13 => exact (extraOf_le (n := 13) (by decide) _).trans (by omega)
  all_goals omega

theorem State.Inv.ranges {s : State} (h : s.Inv) : s.Ranges where
  cfgOk := h.cfgOk
  winOk := h.winOk
  histOk := h.histOk
  sessionOk := h.sessionOk
  copyRange := ⟨h.copyOk.1, h.copyOk.2.1⟩
  curOk := h.curOk
  priorOk := h.priorOk
  readerOk := ⟨h.bitsOk, h.fifoOk, h.takenOk⟩
  fieldRange := h.fieldOk.trans (fieldLimit_le s)
  dynOk := h.dynOk

theorem Reader.Ok.withFifo {d : Nat} {r : Reader} (h : r.Ok d) {bs : List Byte} (hbs : bs.length ≤ d) :
    Reader.Ok d { r with fifo := bs } := ⟨h.bits, hbs, h.taken⟩

theorem Reader.bitsUsed_le (r : Reader) : r.bitsUsed.toNat ≤ 8 := by
  unfold Reader.bitsUsed
  split
  · exact Nat.zero_le 8
  · rw [BitVec.toNat_ofNat]
    omega

/-- Outside RUN and ERROR, with the engine at rest and no error recorded, the ranges are the invariant. -/
theorem State.Ranges.inv_of_rest {s : State} (h : s.Ranges) (hrun : s.ses.state ≠ .run) (hfifo : s.rd.fifo = [])
    (hready : s.row.rowReady = false) (hpending : s.row.pending = none) (hphase : s.eng.phase = .pNone)
    (hneed : s.eng.needInput = false) (hdone : s.ses.state = .done → s.row.rowsDone = s.ses.height)
    (herr :
      (s.ses.state = .error → (∃ c : Cause, s.err.kind = c.kind ∧ s.err.cause = c.code) ∧ s.err.bits.toNat ≤ 8)
      ∧ (s.ses.state ≠ .error → s.err = { kind := 0#3, cause := 0#8, bits := 0#4 })) : s.Inv where
  cfgOk := h.cfgOk
  winOk := h.winOk
  histOk := h.histOk
  sessionOk := h.sessionOk
  copyOk := ⟨h.copyRange.1, h.copyRange.2, by simp [hphase], by simp [hphase]⟩
  curOk := h.curOk
  priorOk := h.priorOk
  bitsOk := h.readerOk.bits
  fifoOk := h.readerOk.fifo
  takenOk := h.readerOk.taken
  fieldOk := by simpa [State.fieldLimit, hphase] using h.fieldRange
  dynOk := h.dynOk
  contOk := by simp [State.continuationOk, hphase]
  outsideRun := fun _ => ⟨hfifo, hready, hpending, hphase, hneed⟩
  runConfig := fun hr => absurd hr hrun
  runRow := fun hr => absurd hr hrun
  rowOk := by simp [hready, hpending]
  doneOk := hdone
  errorOk := herr

/-- An error leaves the invariant, from every state with the ranges (spec/60_exceptions.md R503). -/
theorem State.Ranges.raise_inv {s : State} (h : s.Ranges) (c : Cause) : (raise c s).Inv := by
  have hr : (raise c s).Ranges :=
    { h with readerOk := h.readerOk.withFifo (Nat.zero_le _) }
  exact hr.inv_of_rest nofun rfl rfl rfl rfl rfl nofun
    ⟨fun _ => ⟨⟨c, rfl, rfl⟩, s.rd.bitsUsed_le⟩, fun hne => absurd rfl hne⟩

/-! ### The engine at work -/

/-- The part of `State.Inv` for RUN that does not depend on the phase. -/
structure State.Running (s : State) : Prop extends State.Ranges s where
  run : s.ses.state = .run
  config : configError s.cfg s.ses.width s.ses.height s.ses.bpp = none
    ∧ s.ses.rowbytes = s.ses.width.toNat * s.ses.bpp.toNat ∧ s.ses.stride = s.ses.rowbytes + 1
  colOk : s.row.col < s.ses.stride
  rowsOk : s.row.rowsDone.toNat ≤ s.ses.height.toNat
  rowOk : (s.row.rowReady = true → s.row.col = 0 ∧ s.row.pending = none ∧ s.row.rowsDone.toNat < s.ses.height.toNat)
    ∧ (s.row.pending ≠ none → s.row.rowsDone.toNat < s.ses.height.toNat)
  noError : s.err = { kind := 0#3, cause := 0#8, bits := 0#4 }

/-- The part of `State.Inv` that depends on the phase of an engine with a phase. -/
structure State.PhaseOk (s : State) : Prop where
  phase : s.eng.phase ≠ .pNone
  field : s.rd.fieldBits.length ≤ s.fieldLimit
  cont : s.continuationOk = true
  lengthOk : s.eng.phase = .pDist ∨ s.eng.phase = .pDistExtra → 3 ≤ s.eng.copyLen.toNat
  distOk : s.eng.phase = .pCopy → 1 ≤ s.eng.copyDist.toNat ∧ s.eng.copyDist.toNat ≤ s.win.hist

theorem State.Inv.running {s : State} (h : s.Inv) (hrun : s.ses.state = .run) : s.Running :=
  { h.ranges with
    run := hrun
    config := h.runConfig hrun
    colOk := (h.runRow hrun).2.1
    rowsOk := (h.runRow hrun).2.2
    rowOk := h.rowOk
    noError := h.errorOk.2 (by simp [hrun]) }

theorem State.Inv.phaseOk {s : State} (h : s.Inv) (hrun : s.ses.state = .run) : s.PhaseOk where
  phase := (h.runRow hrun).1
  field := h.fieldOk
  cont := h.contOk
  lengthOk := h.copyOk.2.2.1
  distOk := h.copyOk.2.2.2

/-- In RUN the two parts are the invariant. -/
theorem State.Running.inv {s : State} (h : s.Running) (hp : s.PhaseOk) : s.Inv where
  cfgOk := h.cfgOk
  winOk := h.winOk
  histOk := h.histOk
  sessionOk := h.sessionOk
  copyOk := ⟨h.copyRange.1, h.copyRange.2, hp.lengthOk, hp.distOk⟩
  curOk := h.curOk
  priorOk := h.priorOk
  bitsOk := h.readerOk.bits
  fifoOk := h.readerOk.fifo
  takenOk := h.readerOk.taken
  fieldOk := hp.field
  dynOk := h.dynOk
  contOk := hp.cont
  outsideRun := fun hne => absurd h.run hne
  runConfig := fun _ => h.config
  runRow := fun _ => ⟨hp.phase, h.colOk, h.rowsOk⟩
  rowOk := h.rowOk
  doneOk := by simp [h.run]
  errorOk := ⟨by simp [h.run], fun _ => h.noError⟩

namespace State.Running
variable {s : State}

theorem withReader (h : s.Running) {r : Reader} (hr : r.Ok s.cfg.inFifoDepth) (hf : r.fieldBits.length ≤ 32) :
    State.Running { s with rd := r } :=
  { h with readerOk := hr, fieldRange := hf }

theorem withTrav (h : s.Running) (tr : Traversal) : State.Running { s with trav := tr } := { h with }

theorem withNeedInput (h : s.Running) (b : Bool) :
    State.Running { s with eng := { s.eng with needInput := b } } :=
  { h with }

/-- The configuration a session runs with has at least one byte in a row, and a row fits `MAX_ROW_BYTES`. -/
theorem rowbytes_range (h : s.Running) : 1 ≤ s.ses.rowbytes ∧ s.ses.rowbytes ≤ s.cfg.maxRowBytes := by
  obtain ⟨hcfg, hrow, -⟩ := h.config
  rw [hrow]
  unfold configError at hcfg
  split_ifs at hcfg with hzero hbpp hlong
  have hwidth : s.ses.width.toNat ≠ 0 := fun h0 => hzero (.inl (BitVec.eq_of_toNat_eq h0))
  exact ⟨Nat.mul_pos (Nat.pos_of_ne_zero hwidth) (by omega), by omega⟩

/-- `Emit` with no row waiting (spec/43_lz77.md R301): the byte goes to the row stream only within the image. -/
theorem emit (h : s.Running) (hready : s.row.rowReady = false) (v : Byte) : (emit v s).Running where
  cfgOk := h.cfgOk
  winOk := Memory.wf_write h.winOk s.win.wp.isLt
  histOk := Nat.min_le_right _ _
  sessionOk := by
    intro hlt
    simp only [emit_win, winWrite] at hlt ⊢
    obtain ⟨hwp, hout⟩ := h.sessionOk (by omega)
    have hmin : min (s.win.hist + 1) 32768 = s.win.hist + 1 := by omega
    rw [hmin] at hlt ⊢
    refine ⟨?_, ?_⟩
    · rw [BitVec.toNat_add, hwp]
      exact Nat.mod_eq_of_lt hlt
    · rw [emit_eng, hout, BitVec.ofNat_add]
  copyRange := h.copyRange
  curOk := by
    rw [emit_row]
    split <;> exact h.curOk
  priorOk := by
    rw [emit_row]
    split <;> exact h.priorOk
  readerOk := h.readerOk
  fieldRange := h.fieldRange
  dynOk := h.dynOk
  run := h.run
  config := h.config
  colOk := by
    rw [emit_row]
    split <;> exact h.colOk
  rowsOk := by
    rw [emit_row]
    split <;> exact h.rowsOk
  rowOk := by
    have hle := h.rowsOk
    rw [emit_row]
    split
    · exact h.rowOk
    · rename_i hne
      have hlt : s.row.rowsDone.toNat ≠ s.ses.height.toNat := fun heq => hne (BitVec.eq_of_toNat_eq heq)
      exact ⟨fun hr => absurd hr (by simp [hready]), fun _ => lt_of_le_of_ne hle hlt⟩
  noError := h.noError

end State.Running

namespace State.PhaseOk
variable {s : State}

/-- The row stream, the host and the session are no matter of the phase. -/
theorem of_eq {t : State} (h : s.PhaseOk) (heng : t.eng = s.eng) (hrd : t.rd.fieldBits = s.rd.fieldBits)
    (htrav : t.trav = s.trav) (htab : t.tab = s.tab) (hwin : t.win = s.win) : t.PhaseOk where
  phase := heng ▸ h.phase
  field := by
    rw [hrd, State.fieldLimit, heng]
    exact h.field
  cont := by
    rw [State.continuationOk, heng, htrav, htab]
    exact h.cont
  lengthOk := heng ▸ h.lengthOk
  distOk := by
    rw [heng, hwin]
    exact h.distOk

theorem withReader (h : s.PhaseOk) {r : Reader} (hr : r.fieldBits.length ≤ s.fieldLimit) :
    State.PhaseOk { s with rd := r } :=
  { h with field := hr }

theorem withNeedInput (h : s.PhaseOk) (b : Bool) :
    State.PhaseOk { s with eng := { s.eng with needInput := b } } :=
  { h with }

end State.PhaseOk

/-! ### Reads that stop -/

/-- Where a read stops at a phase, the machine has the invariant, whether it raises or suspends. -/
theorem State.Running.stopped_inv {u t : State} (h : u.Running) (hp : u.PhaseOk) (ht : Stopped u t) : t.Inv := by
  obtain ⟨c, rfl⟩ | rfl := ht
  · exact h.raise_inv c
  · exact (h.withNeedInput true).inv (hp.withNeedInput true)

/-- Where the field of the phase stops, the invariant holds. -/
theorem State.Running.readField_stop_inv {s t : State} {n : Nat} (h : s.Running) (hp : s.PhaseOk)
    (hn : s.fieldLimit = n) (hread : readField n s = .stop t) : t.Inv := by
  obtain ⟨r, ht, hr, hok⟩ := readField_stopped hread
  have hlimit := fieldLimit_le s
  exact (h.withReader (hok _ h.readerOk) (by omega)).stopped_inv (hp.withReader (hn ▸ hr.le)) ht

/-- Where the field of the phase is read whole, the engine goes on with another reader. -/
theorem State.Running.readField_done {s t : State} {n v : Nat} (h : s.Running) (hp : s.PhaseOk)
    (hn : s.fieldLimit = n) (hread : readField n s = .done v t) :
    v < 2 ^ n ∧ ∃ r : Reader, t = { s with rd := r } ∧ r.fieldBits = [] ∧ State.Running { s with rd := r } := by
  obtain ⟨hv, r, ht, hr, hok⟩ := readField_done_ok hread (hn ▸ hp.field)
  exact ⟨hv, r, ht, hr, h.withReader (hok _ h.readerOk) (by simp [hr])⟩

/-! ### The phases whose continuation is a fresh beginning -/

/-- No bit of a field or a code is held: what every element leaves behind it. -/
structure State.Fresh (s : State) : Prop where
  field : s.rd.fieldBits = []
  trav : s.trav = Traversal.fresh

theorem State.Fresh.field_le {s : State} (h : s.Fresh) (n : Nat) : s.rd.fieldBits.length ≤ n := by
  simp [h.field]

/-- The phases at which a field is read, or stored bytes are copied, whose continuation rests on no table. -/
def plainPhases : List Phase := [.pZhdr, .pBhdr, .pStoredHdr, .pStoredCopy, .pDynCounts, .pDynClen]

theorem State.continuationOk_of_plain {s : State} (hp : s.eng.phase ∈ plainPhases) :
    s.continuationOk = decide (s.trav = Traversal.fresh) := by
  simp only [plainPhases, List.mem_cons, List.not_mem_nil, or_false] at hp
  obtain hp | hp | hp | hp | hp | hp := hp <;> simp [State.continuationOk, hp]

theorem State.Fresh.phaseOk_of_plain {s : State} (h : s.Fresh) (hp : s.eng.phase ∈ plainPhases) : s.PhaseOk where
  phase := by
    rintro hn
    rw [hn] at hp
    exact absurd hp (by decide)
  field := by simp [h.field]
  cont := by simp [State.continuationOk_of_plain hp, h.trav]
  lengthOk := by
    rintro (hn | hn) <;> rw [hn] at hp <;> exact absurd hp (by decide)
  distOk := by
    intro hn
    rw [hn] at hp
    exact absurd hp (by decide)

/-- The two tables of a block decode to symbols of their alphabets only. -/
def Tables.BlockSound (t : Tables) : Prop := t.lit.sound 288 = true ∧ t.dist.sound 32 = true

theorem State.Fresh.phaseOk_of_pSym {s : State} (h : s.Fresh) (hp : s.eng.phase = .pSym) (ht : s.tab.BlockSound) :
    s.PhaseOk where
  phase := by simp [hp]
  field := by simp [h.field]
  cont := by simp [State.continuationOk, hp, h.trav, ht.1, ht.2, Traversal.fresh_within ht.1]
  lengthOk := by simp [hp]
  distOk := by simp [hp]

theorem State.Fresh.phaseOk_of_pDist {s : State} (h : s.Fresh) (hp : s.eng.phase = .pDist) (ht : s.tab.BlockSound)
    (hlen : 3 ≤ s.eng.copyLen.toNat) : s.PhaseOk where
  phase := by simp [hp]
  field := by simp [h.field]
  cont := by simp [State.continuationOk, hp, h.trav, ht.1, ht.2, Traversal.fresh_within ht.2]
  lengthOk := fun _ => hlen
  distOk := by simp [hp]

theorem State.Fresh.phaseOk_of_pCopy {s : State} (h : s.Fresh) (hp : s.eng.phase = .pCopy) (ht : s.tab.BlockSound)
    (hdist : 1 ≤ s.eng.copyDist.toNat ∧ s.eng.copyDist.toNat ≤ s.win.hist) : s.PhaseOk where
  phase := by simp [hp]
  field := by simp [h.field]
  cont := by simp [State.continuationOk, hp, h.trav, ht.1, ht.2]
  lengthOk := by simp [hp]
  distOk := fun _ => hdist

theorem State.Fresh.phaseOk_of_pDynLens {s : State} (h : s.Fresh) (hp : s.eng.phase = .pDynLens)
    (ht : s.tab.clt.sound 19 = true) : s.PhaseOk where
  phase := by simp [hp]
  field := by simp [h.field]
  cont := by simp [State.continuationOk, hp, h.trav, ht, Traversal.fresh_within ht]
  lengthOk := by simp [hp]
  distOk := by simp [hp]

/-! ### What the phase says of the tables -/

/-- The phases of a Huffman block's body. -/
def blockPhases : List Phase := [.pSym, .pLenExtra, .pDist, .pDistExtra, .pCopy]

theorem State.PhaseOk.blockSound {s : State} (h : s.PhaseOk) (hp : s.eng.phase ∈ blockPhases) :
    s.tab.BlockSound := by
  have hc := h.cont
  simp only [blockPhases, List.mem_cons, List.not_mem_nil, or_false] at hp
  obtain hp | hp | hp | hp | hp := hp <;>
    simp only [State.continuationOk, hp, Bool.and_eq_true, and_assoc] at hc <;> exact ⟨hc.1, hc.2.1⟩

theorem State.PhaseOk.cltSound {s : State} (h : s.PhaseOk) (hp : s.eng.phase = .pDynLens ∨ s.eng.phase = .pDynExtra) :
    s.tab.clt.sound 19 = true := by
  have hc := h.cont
  obtain hp | hp := hp <;> simp only [State.continuationOk, hp, Bool.and_eq_true, and_assoc] at hc <;> exact hc.1

/-- Only inside a code do the traversal registers hold anything. -/
theorem State.PhaseOk.trav_fresh {s : State} (h : s.PhaseOk)
    (hp : s.eng.phase ≠ .pDynLens ∧ s.eng.phase ≠ .pSym ∧ s.eng.phase ≠ .pDist) : s.trav = Traversal.fresh := by
  have hc := h.cont
  have hn := h.phase
  unfold State.continuationOk at hc
  split at hc <;> simp_all

/-- At a coded phase the traversal registers belong to its table, and no bit of a field is held. -/
theorem State.PhaseOk.coded {s : State} {p : Phase} {f : Format} {tbl : HuffTable} (h : s.PhaseOk)
    (hmem : (p, f, tbl) ∈ s.codedPhases) (hp : s.eng.phase = p) :
    s.trav.within tbl = true ∧ s.rd.fieldBits = [] := by
  have hc := h.cont
  have hf := h.field
  simp only [State.codedPhases, List.mem_cons, List.not_mem_nil, or_false, Prod.mk.injEq] at hmem
  obtain ⟨rfl, rfl, rfl⟩ | ⟨rfl, rfl, rfl⟩ | ⟨rfl, rfl, rfl⟩ := hmem
  all_goals
    simp only [State.continuationOk, hp, Bool.and_eq_true] at hc
    simp only [State.fieldLimit, hp, Nat.le_zero, List.length_eq_zero_iff] at hf
    exact ⟨hc.2, hf⟩

/-- A code in progress: the bits taken change the reader and the traversal registers. -/
theorem State.PhaseOk.withCode {s : State} {p : Phase} {f : Format} {tbl : HuffTable} (h : s.PhaseOk)
    (hmem : (p, f, tbl) ∈ s.codedPhases) (hp : s.eng.phase = p) {r : Reader} (hr : r.fieldBits = [])
    {tr : Traversal} (htr : tr.within tbl = true) : State.PhaseOk { s with rd := r, trav := tr } :=
  { h with
    field := by simp [hr]
    cont := by
      have hc := h.cont
      simp only [State.codedPhases, List.mem_cons, List.not_mem_nil, or_false, Prod.mk.injEq] at hmem
      obtain ⟨rfl, rfl, rfl⟩ | ⟨rfl, rfl, rfl⟩ | ⟨rfl, rfl, rfl⟩ := hmem
      all_goals
        simp only [State.continuationOk, hp, Bool.and_eq_true] at hc ⊢
        exact ⟨hc.1, htr⟩ }

end Sys2Proof.Machine
end

section
/-! Every element of the stream keeps the invariant: what its instruction answers, from a state in which the engine works
and the element's bits have been read. -/

namespace Sys2Proof.Machine

/-- Every state the outcome answers has the invariant. -/
def KeepsInv (o : Result) : Prop := ∀ t, o = .next t → t.Inv

theorem keepsInv_next {s : State} (h : s.Inv) : KeepsInv (.next s) := by
  rintro t ht
  cases ht
  exact h

/-! ### Ends of blocks -/

theorem endOfStream_inv {s : State} (h : s.Running) (hready : s.row.rowReady = false)
    (hpending : s.row.pending = none) : (endOfStream s).Inv := by
  unfold endOfStream
  split
  · exact h.raise_inv _
  · rename_i hge
    have hdone : s.row.rowsDone = s.ses.height := by
      have hle := h.rowsOk
      rw [BitVec.lt_def] at hge
      exact BitVec.eq_of_toNat_eq (by omega)
    have hr : State.Ranges
        { s with
          ses := { s.ses with state := .done }
          rd := { s.rd with curByte := 0#8, nbits := 0, fifo := [] }
          eng := { s.eng with phase := .pNone, needInput := false } } :=
      { h with
        readerOk := ⟨⟨Nat.zero_le 7, Nat.one_pos⟩, Nat.zero_le _, h.readerOk.taken.1, Nat.zero_le _⟩ }
    exact hr.inv_of_rest nofun rfl hready hpending rfl rfl (fun _ => hdone) ⟨nofun, fun _ => h.noError⟩

theorem blockEnd_inv {s : State} (h : s.Running) (hready : s.row.rowReady = false) (hpending : s.row.pending = none)
    (hfresh : s.Fresh) : (blockEnd s).Inv := by
  unfold blockEnd
  split
  · exact endOfStream_inv h hready hpending
  · refine State.Running.inv { h with } ?_
    exact State.Fresh.phaseOk_of_plain ⟨hfresh.field, hfresh.trav⟩ (by simp [plainPhases])

/-! ### zlib header, block headers, stored blocks -/

/-- A change of phase to one that reads a field. -/
theorem State.Running.inv_of_plain {s : State} (h : s.Running) (hfresh : s.Fresh) (hp : s.eng.phase ∈ plainPhases) :
    s.Inv :=
  h.inv (hfresh.phaseOk_of_plain hp)

theorem exec_decodeZlib_keepsInv {s : State} (h : s.Running) (hfresh : s.Fresh) (cmf flg : Byte) :
    KeepsInv (exec (decodeZlib cmf flg) s) := by
  unfold decodeZlib
  split_ifs
  case neg =>
    exact keepsInv_next (State.Running.inv_of_plain { h with } ⟨hfresh.field, hfresh.trav⟩
      (by simp [afterZlibHeader, plainPhases]))
  all_goals exact keepsInv_next (h.raise_inv _)

theorem blockHeader_running {s : State} (h : s.Running) (bfinal : Bool) (btype : BitVec 2) (p : Phase) :
    (blockHeader bfinal btype p s).Running :=
  { h with }

theorem alignToByte_running {s : State} (h : s.Running) : (alignToByte s).Running :=
  h.withReader ⟨⟨Nat.zero_le 7, Nat.one_pos⟩, h.readerOk.fifo, h.readerOk.taken.1, Nat.zero_le _⟩ h.fieldRange

/-! ### Tables -/

theorem symbolsOfLength_length (l s : Nat) (lens : List Nat) : (symbolsOfLength l s lens).length = lens.count l := by
  induction lens generalizing s with
  | nil => rfl
  | cons x xs ih =>
    rw [symbolsOfLength, List.count_cons]
    split <;> simp_all

theorem symbolsOfLength_lt {l s x : Nat} {lens : List Nat} (h : x ∈ symbolsOfLength l s lens) :
    x < s + lens.length := by
  induction lens generalizing s with
  | nil => simp [symbolsOfLength] at h
  | cons y ys ih =>
    have hrest : x ∈ symbolsOfLength l (s + 1) ys → x < s + (y :: ys).length := fun hx => by
      have := ih hx
      rw [List.length_cons]
      omega
    rw [symbolsOfLength] at h
    split at h
    · obtain rfl | hx := List.mem_cons.mp h
      · simp
      · exact hrest hx
    · exact hrest h

theorem canonicalSymbols_length (lens : List Nat) : (canonicalSymbols lens).length = (lengthCounts lens).sum := by
  simp [canonicalSymbols, lengthCounts, List.length_flatMap, symbolsOfLength_length]

theorem canonicalSymbols_lt {x : Nat} {lens : List Nat} (h : x ∈ canonicalSymbols lens) : x < lens.length := by
  obtain ⟨l, -, hx⟩ := List.mem_flatMap.mp h
  simpa using symbolsOfLength_lt hx

/-- A table that is not over-subscribed decodes to symbols of its alphabet (spec/42_huffman.md R260). -/
theorem build_sound {n : Nat} {lens : List Nat} (hlen : lens.length ≤ n) (h : (build lens).status ≠ .oversub) :
    (build lens).sound n = true := by
  unfold build at h ⊢
  split
  · exact HuffTable.sound_iff.mpr ⟨rfl, rfl, rfl, nofun⟩
  · rename_i hall
    simp only [hall, if_false, Bool.false_eq_true] at h
    dsimp only at h ⊢
    split
    · rename_i hover
      simp [hover] at h
    · refine HuffTable.sound_iff.mpr ⟨?_, rfl, canonicalSymbols_length lens, fun x hx => ?_⟩
      · simp [lengthCounts]
      · exact (canonicalSymbols_lt hx).trans_le hlen

theorem fixedLit_sound : fixedLit.sound 288 = true := by
  have hlen : fixedLitLengths.length ≤ 288 := by decide +kernel
  exact build_sound hlen (by decide +kernel)

theorem fixedDist_sound : fixedDist.sound 32 = true := by
  have hlen : (List.replicate 32 5).length ≤ 32 := by simp
  exact build_sound hlen (by decide +kernel)

theorem Tables.fixed_blockSound (t : Tables) : Tables.BlockSound { t with lit := fixedLit, dist := fixedDist } := by
  simp only [Tables.BlockSound, fixedLit_sound, fixedDist_sound, and_self]

theorem litLengths_length (d : DynHeader) (h : d.hlit ≤ 288) : (litLengths d).length ≤ 288 := by
  simp only [litLengths, List.length_append, List.length_map, List.length_take, List.length_replicate]
  omega

theorem distLengths_length (d : DynHeader) (h : d.hdist ≤ 32) : (distLengths d).length ≤ 32 := by
  simp only [distLengths, List.length_append, List.length_map, List.length_take, List.length_replicate]
  omega

theorem exec_decodeBlock_keepsInv {s : State} (h : s.Running) (hfresh : s.Fresh) (v : Nat) :
    KeepsInv (exec (decodeBlock v) s) := by
  unfold decodeBlock
  dsimp only
  split_ifs
  · exact keepsInv_next ((alignToByte_running (blockHeader_running h _ _ _)).inv_of_plain
      ⟨hfresh.field, hfresh.trav⟩ (by simp [plainPhases]))
  · refine keepsInv_next (State.Running.inv { h with } ?_)
    exact State.Fresh.phaseOk_of_pSym ⟨hfresh.field, hfresh.trav⟩ rfl (Tables.fixed_blockSound _)
  · exact keepsInv_next ((blockHeader_running h _ _ _).inv_of_plain
      ⟨hfresh.field, hfresh.trav⟩ (by simp [plainPhases]))
  · exact keepsInv_next ((blockHeader_running h _ _ _).raise_inv _)

theorem exec_decodeStored_keepsInv {s : State} (h : s.Running) (hfresh : s.Fresh) (len nlen : BitVec 16) :
    KeepsInv (exec (decodeStored len nlen) s) := by
  unfold decodeStored
  split_ifs
  · exact keepsInv_next (State.Running.inv_of_plain { h with } ⟨hfresh.field, hfresh.trav⟩ (by simp [plainPhases]))
  · exact keepsInv_next (h.raise_inv _)

theorem exec_storedByte_keepsInv {s : State} (h : s.Running) (hready : s.row.rowReady = false) (hfresh : s.Fresh)
    (hp : s.eng.phase = .pStoredCopy) (v : Byte) : KeepsInv (exec (.storedByte v) s) := by
  have hrun : State.Running { s with eng := { s.eng with lenRem := s.eng.lenRem - 1#16 } } := { h with }
  exact keepsInv_next ((hrun.emit hready v).inv_of_plain ⟨hfresh.field, hfresh.trav⟩ (by simp [plainPhases, hp]))

/-! ### Dynamic headers -/

theorem setCounts_running {s : State} (h : s.Running) (hlit hdist : BitVec 5) (hclen : BitVec 4) :
    (setCounts hlit hdist hclen s).Running :=
  { h with
    dynOk := by
      have hl := hlit.isLt
      have hd := hdist.isLt
      refine ⟨h.dynOk.1, ?_⟩
      simp only [setCounts_dyn]
      omega }

theorem exec_decodeDyn_keepsInv {s : State} (h : s.Running) (hfresh : s.Fresh) (hlit hdist : BitVec 5)
    (hclen : BitVec 4) : KeepsInv (exec (decodeDyn hlit hdist hclen) s) := by
  have hrun := setCounts_running h hlit hdist hclen
  unfold decodeDyn
  split_ifs
  · exact keepsInv_next (State.Running.inv_of_plain { hrun with dynOk := ⟨rfl, hrun.dynOk.2⟩ }
      ⟨hfresh.field, hfresh.trav⟩ (by simp [plainPhases]))
  · exact keepsInv_next (hrun.raise_inv _)

theorem exec_cll_keepsInv {s : State} (h : s.Running) (hfresh : s.Fresh) (hp : s.eng.phase = .pDynClen)
    (length : BitVec 3) : KeepsInv (exec (.cll length) s) := by
  have hcl : (s.dyn.cl.set (clenOrder.getD s.dyn.clIdx 0) length).length = 19 := by
    rw [List.length_set]
    exact h.dynOk.1
  show KeepsInv (execCll length s)
  unfold execCll
  dsimp only
  split_ifs with hmore hacc
  · exact keepsInv_next (State.Running.inv_of_plain { h with dynOk := ⟨hcl, h.dynOk.2⟩ }
      ⟨hfresh.field, hfresh.trav⟩ (by simp [plainPhases, hp]))
  · refine keepsInv_next (State.Running.inv { h with dynOk := ⟨hcl, h.dynOk.2⟩ } ?_)
    refine State.Fresh.phaseOk_of_pDynLens ⟨hfresh.field, hfresh.trav⟩ rfl (build_sound ?_ ?_)
    · rw [List.length_map, hcl]
    · simp only [cltAccepted, decide_eq_true_eq] at hacc
      rw [hacc]
      decide
  · refine keepsInv_next (State.Ranges.raise_inv ?_ _)
    exact { h with dynOk := ⟨hcl, h.dynOk.2⟩ }

theorem buildBlockTables_inv {s : State} (h : s.Running) (hfresh : s.Fresh) : (buildBlockTables s).Inv := by
  unfold buildBlockTables
  dsimp only
  split_ifs with heob hlit hdist
  · exact h.raise_inv _
  · refine State.Running.inv { h with } ?_
    refine State.Fresh.phaseOk_of_pSym ⟨hfresh.field, hfresh.trav⟩ rfl ⟨build_sound ?_ ?_, build_sound ?_ ?_⟩
    · exact litLengths_length _ h.dynOk.2.1
    · intro hover
      simp [litAccepted, hover] at hlit
    · exact distLengths_length _ h.dynOk.2.2
    · intro hover
      simp [distAccepted, hover] at hdist
  · refine State.Ranges.raise_inv ?_ _
    exact { h with }
  · refine State.Ranges.raise_inv ?_ _
    exact { h with }

theorem appendLengths_inv {s : State} (h : s.Running) (hfresh : s.Fresh) (hclt : s.tab.clt.sound 19 = true)
    (n : Nat) (v : BitVec 4) : (appendLengths n v s).Inv := by
  have hrun : State.Running
      { s with
        dyn := { s.dyn with lens := s.dyn.lens ++ List.replicate n v }
        eng := { s.eng with phase := .pDynLens } } := { h with }
  unfold appendLengths
  dsimp only
  split
  · exact hrun.inv (State.Fresh.phaseOk_of_pDynLens ⟨hfresh.field, hfresh.trav⟩ rfl hclt)
  · exact buildBlockTables_inv hrun ⟨hfresh.field, hfresh.trav⟩

theorem repeatLengths_inv {s : State} (h : s.Running) (hfresh : s.Fresh) (hclt : s.tab.clt.sound 19 = true)
    (n : Nat) (v : BitVec 4) : (repeatLengths n v s).Inv := by
  unfold repeatLengths
  split
  · exact h.raise_inv _
  · exact appendLengths_inv h hfresh hclt n v

/-- A repeat symbol, whose extra bits are read from the beginning or resumed. -/
theorem repeatSymbol_inv {s : State} {sym : BitVec 9} (h : s.Running) (htrav : s.trav = Traversal.fresh)
    (hclt : s.tab.clt.sound 19 = true) (hsym : 16 ≤ sym.toNat ∧ sym.toNat ≤ 18)
    (hfield : s.rd.fieldBits.length ≤ repeatExtra sym.toNat) (base : Nat) (v : BitVec 4) :
    (repeatSymbol sym base (repeatExtra sym.toNat) v s).Inv := by
  have hrun : State.Running { s with eng := { s.eng with phase := .pDynExtra, sym := sym } } := { h with }
  have hphase : State.PhaseOk { s with eng := { s.eng with phase := .pDynExtra, sym := sym } } :=
    { phase := nofun
      field := hfield
      cont := by simp [State.continuationOk, hclt, htrav, hsym]
      lengthOk := nofun
      distOk := nofun }
  unfold repeatSymbol
  split
  · rename_i hread
    exact hrun.readField_stop_inv hphase rfl hread
  · rename_i hread
    obtain ⟨-, r, rfl, hr, hrun'⟩ := hrun.readField_done hphase rfl hread
    exact repeatLengths_inv hrun' ⟨hr, htrav⟩ hclt _ _

/-- A code-length symbol, read at P_DYN_LENS or resumed at its extra bits. -/
theorem exec_decodeClen_keepsInv {s : State} {v : Nat} {i : Instr} (hi : decodeClen v = some i) (h : s.Running)
    (htrav : s.trav = Traversal.fresh) (hclt : s.tab.clt.sound 19 = true)
    (hfield : s.rd.fieldBits.length ≤ repeatExtra v) : KeepsInv (exec i s) := by
  unfold decodeClen at hi
  split_ifs at hi with hlen h16 h17 h18 <;> cases hi
  · have hnone : repeatExtra v = 0 := by
      unfold repeatExtra
      split_ifs <;> omega
    rw [hnone, Nat.le_zero, List.length_eq_zero_iff] at hfield
    exact keepsInv_next (appendLengths_inv h ⟨hfield, htrav⟩ hclt 1 _)
  · subst h16
    show KeepsInv (execClRepeatPrev s)
    unfold execClRepeatPrev
    split
    · exact keepsInv_next (h.raise_inv _)
    · exact keepsInv_next (repeatSymbol_inv (sym := 16#9) h htrav hclt (by decide) hfield 3 _)
  · subst h17
    exact keepsInv_next (repeatSymbol_inv (sym := 17#9) h htrav hclt (by decide) hfield 3 _)
  · subst h18
    exact keepsInv_next (repeatSymbol_inv (sym := 18#9) h htrav hclt (by decide) hfield 11 _)

/-! ### Literals, lengths and distances -/

theorem exec_lengthRow : ∀ r ∈ lengthRows, ∀ s,
    exec r.1 s = .next (lengthSymbol (BitVec.ofNat 9 r.2.1) r.2.2.1 r.2.2.2 s) := by
  intro r hr s
  simp only [lengthRows, lengthRowsLow, lengthRowsHigh, List.mem_append, List.mem_cons, List.not_mem_nil,
    or_false] at hr
  rcases hr with (rfl | rfl | rfl | rfl | rfl | rfl | rfl | rfl | rfl | rfl | rfl | rfl | rfl | rfl | rfl)
    | (rfl | rfl | rfl | rfl | rfl | rfl | rfl | rfl | rfl | rfl | rfl | rfl | rfl | rfl) <;> rfl

theorem exec_distanceRow : ∀ r ∈ distanceRows, ∀ s,
    exec r.1 s = .next (distanceSymbol (BitVec.ofNat 9 r.2.1) r.2.2.1 r.2.2.2 s) := by
  intro r hr s
  simp only [distanceRows, distanceRowsLow, distanceRowsHigh, List.mem_append, List.mem_cons, List.not_mem_nil,
    or_false] at hr
  rcases hr with (rfl | rfl | rfl | rfl | rfl | rfl | rfl | rfl | rfl | rfl | rfl | rfl | rfl | rfl | rfl | rfl)
    | (rfl | rfl | rfl | rfl | rfl | rfl | rfl | rfl | rfl | rfl | rfl | rfl | rfl | rfl) <;> rfl

/-- The length symbols are 257..285; their lengths are 3..258 (spec/30_encoding.md R128). -/
theorem lengthRow_range : ∀ r ∈ lengthRows, 257 ≤ r.2.1 ∧ r.2.1 ≤ 285 ∧ extraOf lengthRows r.2.1 = r.2.2.2
    ∧ 3 ≤ r.2.2.1 ∧ r.2.2.1 + 2 ^ r.2.2.2 ≤ 259 := by decide

/-- The distance symbols are 0..29; their distances are 1..32768 (spec/30_encoding.md R129). -/
theorem distanceRow_range : ∀ r ∈ distanceRows, r.2.1 ≤ 29 ∧ extraOf distanceRows r.2.1 = r.2.2.2
    ∧ 1 ≤ r.2.2.1 ∧ r.2.2.1 + 2 ^ r.2.2.2 ≤ 32769 := by decide

theorem litlenTail_rows : ∀ p ∈ litlenTail.zipIdx 257,
    (∃ r ∈ lengthRows, r.1 = p.1 ∧ r.2.1 = p.2) ∨ p = (.litlenRsv286, 286) ∨ p = (.litlenRsv287, 287) := by
  decide

theorem distRows_rows : ∀ p ∈ distRows.zipIdx,
    (∃ r ∈ distanceRows, r.1 = p.1 ∧ r.2.1 = p.2) ∨ p = (.distRsv30, 30) ∨ p = (.distRsv31, 31) := by
  decide

/-- What a literal/length symbol can stand for (spec/30_encoding.md R127). -/
theorem decodeLitlen_cases {v : Nat} {i : Instr} (h : decodeLitlen v = some i) :
    (v < 256 ∧ i = .lit (BitVec.ofNat 8 v)) ∨ (v = 256 ∧ i = .eob) ∨ (∃ r ∈ lengthRows, r.1 = i ∧ r.2.1 = v)
      ∨ i = .litlenRsv286 ∨ i = .litlenRsv287 := by
  unfold decodeLitlen at h
  split_ifs at h with hlit heob
  · cases h
    exact .inl ⟨hlit, rfl⟩
  · cases h
    exact .inr (.inl ⟨heob, rfl⟩)
  · have hmem : (i, v) ∈ litlenTail.zipIdx 257 := by
      rw [List.mk_mem_zipIdx_iff_le_and_getElem?_sub]
      exact ⟨by omega, h⟩
    obtain hrow | heq | heq := litlenTail_rows _ hmem
    · exact .inr (.inr (.inl hrow))
    · exact .inr (.inr (.inr (.inl (congrArg Prod.fst heq))))
    · exact .inr (.inr (.inr (.inr (congrArg Prod.fst heq))))

/-- What a distance symbol can stand for (spec/30_encoding.md R129). -/
theorem decodeDist_cases {v : Nat} {i : Instr} (h : distRows[v]? = some i) :
    (∃ r ∈ distanceRows, r.1 = i ∧ r.2.1 = v) ∨ i = .distRsv30 ∨ i = .distRsv31 := by
  obtain hrow | heq | heq := distRows_rows (i, v) (List.mk_mem_zipIdx_iff_getElem?.mpr h)
  · exact .inl hrow
  · exact .inr (.inl (congrArg Prod.fst heq))
  · exact .inr (.inr (congrArg Prod.fst heq))

/-- A length symbol, whose extra bits are read from the beginning or resumed. -/
theorem exec_lengthRow_keepsInv {s : State} {r : Instr × Nat × Nat × Nat} (hr : r ∈ lengthRows) (h : s.Running)
    (htrav : s.trav = Traversal.fresh) (htab : s.tab.BlockSound)
    (hfield : s.rd.fieldBits.length ≤ extraOf lengthRows r.2.1) : KeepsInv (exec r.1 s) := by
  rw [exec_lengthRow r hr]
  obtain ⟨i, sym, base, extra⟩ := r
  obtain ⟨hlow, hhigh, hextra, hbase, hmax⟩ := lengthRow_range _ hr
  dsimp only at hlow hhigh hextra hbase hmax hfield ⊢
  have hsym : (BitVec.ofNat 9 sym).toNat = sym := Nat.mod_eq_of_lt (by omega)
  have hlimit : State.fieldLimit { s with eng := { s.eng with phase := .pLenExtra, sym := BitVec.ofNat 9 sym } }
      = extra := by
    simp only [State.fieldLimit, hsym, hextra]
  have hrun : State.Running { s with eng := { s.eng with phase := .pLenExtra, sym := BitVec.ofNat 9 sym } } :=
    { h with }
  have hphase : State.PhaseOk { s with eng := { s.eng with phase := .pLenExtra, sym := BitVec.ofNat 9 sym } } :=
    { phase := nofun
      field := hlimit.symm ▸ hextra ▸ hfield
      cont := by simp [State.continuationOk, htab.1, htab.2, htrav, hsym, hlow, hhigh]
      lengthOk := nofun
      distOk := nofun }
  refine keepsInv_next ?_
  unfold lengthSymbol
  split
  · rename_i hread
    exact hrun.readField_stop_inv hphase hlimit hread
  · rename_i e t hread
    obtain ⟨he, r, rfl, hr, hrun'⟩ := hrun.readField_done hphase hlimit hread
    have hlen : (BitVec.ofNat 9 (base + e)).toNat = base + e := Nat.mod_eq_of_lt (by omega)
    refine State.Running.inv { hrun' with copyRange := ⟨?_, h.copyRange.2⟩ } ?_
    · rw [hlen]
      omega
    exact State.Fresh.phaseOk_of_pDist ⟨hr, htrav⟩ rfl htab (by rw [hlen]; omega)

theorem checkDistance_inv {s : State} (h : s.Running) (hfresh : s.Fresh) (htab : s.tab.BlockSound)
    (hdist : 1 ≤ s.eng.copyDist.toNat) : (checkDistance s).Inv := by
  unfold checkDistance
  split
  · exact h.raise_inv _
  · rename_i hle
    refine State.Running.inv { h with } ?_
    exact State.Fresh.phaseOk_of_pCopy ⟨hfresh.field, hfresh.trav⟩ rfl htab ⟨hdist, Nat.le_of_not_lt hle⟩

/-- A distance symbol, whose extra bits are read from the beginning or resumed: the copy it starts reads no farther back
than the bytes emitted (spec/43_lz77.md R368). -/
theorem exec_distanceRow_keepsInv {s : State} {r : Instr × Nat × Nat × Nat} (hr : r ∈ distanceRows) (h : s.Running)
    (htrav : s.trav = Traversal.fresh) (htab : s.tab.BlockSound) (hcopy : 3 ≤ s.eng.copyLen.toNat)
    (hfield : s.rd.fieldBits.length ≤ extraOf distanceRows r.2.1) : KeepsInv (exec r.1 s) := by
  rw [exec_distanceRow r hr]
  obtain ⟨i, sym, base, extra⟩ := r
  obtain ⟨hhigh, hextra, hbase, hmax⟩ := distanceRow_range _ hr
  dsimp only at hhigh hextra hbase hmax hfield ⊢
  have hsym : (BitVec.ofNat 9 sym).toNat = sym := Nat.mod_eq_of_lt (by omega)
  have hlimit : State.fieldLimit { s with eng := { s.eng with phase := .pDistExtra, sym := BitVec.ofNat 9 sym } }
      = extra := by
    simp only [State.fieldLimit, hsym, hextra]
  have hrun : State.Running { s with eng := { s.eng with phase := .pDistExtra, sym := BitVec.ofNat 9 sym } } :=
    { h with }
  have hphase : State.PhaseOk { s with eng := { s.eng with phase := .pDistExtra, sym := BitVec.ofNat 9 sym } } :=
    { phase := nofun
      field := hlimit.symm ▸ hextra ▸ hfield
      cont := by simp [State.continuationOk, htab.1, htab.2, htrav, hsym, hhigh]
      lengthOk := fun _ => hcopy
      distOk := nofun }
  refine keepsInv_next ?_
  unfold distanceSymbol
  split
  · rename_i hread
    exact hrun.readField_stop_inv hphase hlimit hread
  · rename_i e t hread
    obtain ⟨he, r, rfl, hr, hrun'⟩ := hrun.readField_done hphase hlimit hread
    have hdist : (BitVec.ofNat 16 (base + e)).toNat = base + e := Nat.mod_eq_of_lt (by omega)
    refine checkDistance_inv { hrun' with copyRange := ⟨h.copyRange.1, ?_⟩ } ⟨hr, htrav⟩ htab ?_ <;>
      rw [hdist] <;> omega

theorem exec_lit_keepsInv {s : State} (h : s.Running) (hready : s.row.rowReady = false) (hfresh : s.Fresh)
    (htab : s.tab.BlockSound) (v : Byte) : KeepsInv (exec (.lit v) s) := by
  have hrun : State.Running { s with eng := { s.eng with phase := .pSym } } := { h with }
  exact keepsInv_next ((hrun.emit hready v).inv (State.Fresh.phaseOk_of_pSym ⟨hfresh.field, hfresh.trav⟩ rfl htab))

/-- A literal/length symbol at P_SYM. -/
theorem exec_decodeLitlen_keepsInv {s : State} {v : Nat} {i : Instr} (hi : decodeLitlen v = some i) (h : s.Running)
    (hready : s.row.rowReady = false) (hpending : s.row.pending = none) (hfresh : s.Fresh)
    (htab : s.tab.BlockSound) : KeepsInv (exec i s) := by
  obtain ⟨-, rfl⟩ | ⟨-, rfl⟩ | ⟨r, hr, rfl, -⟩ | rfl | rfl := decodeLitlen_cases hi
  · exact exec_lit_keepsInv h hready hfresh htab _
  · exact keepsInv_next (blockEnd_inv h hready hpending hfresh)
  · exact exec_lengthRow_keepsInv hr h hfresh.trav htab (hfresh.field_le _)
  · exact keepsInv_next (h.raise_inv _)
  · exact keepsInv_next (h.raise_inv _)

/-- A length symbol, resumed at its extra bits. -/
theorem exec_lengthResumed_keepsInv {s : State} {i : Instr} (hi : decodeLitlen s.eng.sym.toNat = some i)
    (h : s.Running) (hp : s.PhaseOk) (hphase : s.eng.phase = .pLenExtra) : KeepsInv (exec i s) := by
  have hc := hp.cont
  simp only [State.continuationOk, hphase, Bool.and_eq_true, decide_eq_true_eq] at hc
  have htab := hp.blockSound (by simp [blockPhases, hphase])
  obtain ⟨hlt, -⟩ | ⟨heq, -⟩ | ⟨r, hr, rfl, hsym⟩ | rfl | rfl := decodeLitlen_cases hi
  · omega
  · omega
  · refine exec_lengthRow_keepsInv hr h (hp.trav_fresh (by simp [hphase])) htab ?_
    rw [hsym]
    simpa [State.fieldLimit, hphase] using hp.field
  · exact keepsInv_next (h.raise_inv _)
  · exact keepsInv_next (h.raise_inv _)

/-- A distance symbol at P_DIST, or resumed at its extra bits. -/
theorem exec_decodeDist_keepsInv {s : State} {v : Nat} {i : Instr} (hi : distRows[v]? = some i) (h : s.Running)
    (htrav : s.trav = Traversal.fresh) (htab : s.tab.BlockSound) (hcopy : 3 ≤ s.eng.copyLen.toNat)
    (hfield : s.rd.fieldBits.length ≤ extraOf distanceRows v) : KeepsInv (exec i s) := by
  obtain ⟨r, hr, rfl, rfl⟩ | rfl | rfl := decodeDist_cases hi
  · exact exec_distanceRow_keepsInv hr h htrav htab hcopy hfield
  · exact keepsInv_next (h.raise_inv _)
  · exact keepsInv_next (h.raise_inv _)

theorem copyByte_inv {s : State} (h : s.Running) (hp : s.PhaseOk) (hcopy : s.eng.phase = .pCopy)
    (hready : s.row.rowReady = false) : (copyByte s).Inv := by
  have hplace : s.eng.phase ≠ .pDynLens ∧ s.eng.phase ≠ .pSym ∧ s.eng.phase ≠ .pDist := by simp [hcopy]
  have hfield : s.rd.fieldBits = [] := by simpa [State.fieldLimit, hcopy] using hp.field
  have hfresh : s.Fresh := ⟨hfield, hp.trav_fresh hplace⟩
  have htab := hp.blockSound (by simp [blockPhases, hcopy])
  obtain ⟨hdist, hhist⟩ := hp.distOk hcopy
  unfold copyByte
  split
  · refine State.Running.inv { h with } ?_
    exact State.Fresh.phaseOk_of_pSym ⟨hfresh.field, hfresh.trav⟩ rfl htab
  · rename_i hne
    have hlen : (s.eng.copyLen - 1#9).toNat ≤ 258 := by
      have hle := h.copyRange.1
      bv_omega
    have hrun : State.Running { s with eng := { s.eng with copyLen := s.eng.copyLen - 1#9 } } :=
      { h with copyRange := ⟨hlen, h.copyRange.2⟩ }
    refine (hrun.emit hready _).inv ?_
    refine State.Fresh.phaseOk_of_pCopy ⟨hfresh.field, hfresh.trav⟩ hcopy htab ⟨hdist, ?_⟩
    have hmax := h.histOk
    show s.eng.copyDist.toNat ≤ min (s.win.hist + 1) 32768
    omega

/-! ### The row stream -/

theorem filterByte_running {s : State} (h : s.Running) (t : FilterType) (p : Byte → Byte → Byte → Byte)
    (hready : s.row.rowReady = false) : (filterByte t p s).Running := by
  obtain ⟨hrowbytes, hmax⟩ := h.rowbytes_range
  have hstride := h.config.2.2
  have hcol := h.colOk
  unfold filterByte
  split
  · exact h
  · rename_i v hpending
    have hrows := h.rowOk.2 (by simp [hpending])
    split
    · exact
        { h with
          colOk := by simp only [selectFilter_row, selectFilter_ses]; omega
          rowOk := ⟨fun hr => absurd (hready.symm.trans hr) nofun, fun hne => absurd rfl hne⟩ }
    · rename_i hne
      exact
        { h with
          curOk := Memory.wf_write h.curOk (by simp only [putRowByte_cfg]; omega)
          colOk := by
            simp only [putRowByte_row, putRowByte_ses]
            split <;> omega
          rowOk := by
            simp only [putRowByte_row, putRowByte_ses, decide_eq_true_eq]
            exact ⟨fun hend => ⟨if_pos hend, trivial, hrows⟩, fun hne => absurd rfl hne⟩ }

theorem filterByte_phaseOk {s : State} (hp : s.PhaseOk) (t : FilterType) (p : Byte → Byte → Byte → Byte) :
    (filterByte t p s).PhaseOk := by
  unfold filterByte
  split
  · exact hp
  · split <;> exact hp.of_eq rfl rfl rfl rfl rfl

theorem filterByte_inv {s : State} (h : s.Running) (hp : s.PhaseOk) (hready : s.row.rowReady = false) (t : FilterType)
    (p : Byte → Byte → Byte → Byte) : (filterByte t p s).Inv :=
  (filterByte_running h t p hready).inv (filterByte_phaseOk hp t p)

theorem exec_filterInstr_keepsInv {s : State} (h : s.Running) (hp : s.PhaseOk) (hready : s.row.rowReady = false)
    (t : FilterType) : KeepsInv (exec (filterInstr t) s) := by
  cases t <;> exact keepsInv_next (filterByte_inv h hp hready _ _)

theorem exec_decodeFilter_keepsInv {s : State} (h : s.Running) (hp : s.PhaseOk) (hready : s.row.rowReady = false)
    (v : Nat) : KeepsInv (exec (decodeFilter v) s) := by
  unfold decodeFilter
  split_ifs
  case neg => exact keepsInv_next (h.raise_inv _)
  all_goals exact keepsInv_next (filterByte_inv h hp hready _ _)

end Sys2Proof.Machine
end

section
/-! Every step keeps the invariant: the micro-step by its fetch and the element it runs, a host access by its
instructions and the run of the engine after each. -/

namespace Sys2Proof.Machine

/-! ### The micro-step -/

/-- What the fetch leads to has the invariant. -/
def Fetch.KeepsInv : Fetch → Prop
  | .instr i u => Machine.KeepsInv (exec i u)
  | .internal t => t.Inv
  | .noRow _ _ => True

theorem fetchDecoded_keepsInv {f : Format} {v : Nat} {u : State}
    (h : ∀ i, decodeRow f v = some i → KeepsInv (exec i u)) : (fetchDecoded f v u).KeepsInv := by
  unfold fetchDecoded
  split
  · rename_i i hdec
    exact h i (decodeField_ok hdec)
  · trivial

section
variable {s : State} (h : s.Running) (hp : s.PhaseOk)
include h hp

/-- A fixed-width element of a phase that rests on no table. -/
theorem fetchRead_field_keepsInv {f : Format} {n : Nat} (hplain : s.eng.phase ∈ plainPhases) (hn : s.fieldLimit = n)
    (helem : ∀ v i (r : Reader), decodeRow f v = some i → State.Running { s with rd := r } →
      State.Fresh { s with rd := r } → KeepsInv (exec i { s with rd := r })) :
    (fetchRead f (readField n s)).KeepsInv := by
  have htrav : s.trav = Traversal.fresh := by
    have hc := hp.cont
    rwa [State.continuationOk_of_plain hplain, decide_eq_true_eq] at hc
  cases hread : readField n s with
  | stop t => exact h.readField_stop_inv hp hn hread
  | done v t =>
    obtain ⟨-, r, rfl, hr, hrun⟩ := h.readField_done hp hn hread
    exact fetchDecoded_keepsInv fun i hi => helem v i r hi hrun ⟨hr, htrav⟩

/-- The zlib header. -/
theorem fetchZlib_keepsInv (hz : s.eng.phase = .pZhdr) : (fetchZlib s).KeepsInv := by
  have hn : s.fieldLimit = 16 := by simp [State.fieldLimit, hz]
  cases hread : readField 16 s with
  | stop t =>
    rw [fetchZlib_stop hread]
    exact h.readField_stop_inv hp hn hread
  | done v t =>
    obtain ⟨-, r, rfl, hr, hrun⟩ := h.readField_done hp hn hread
    rw [fetchZlib_done hread]
    refine fetchDecoded_keepsInv fun i hi => ?_
    cases hi
    exact exec_decodeZlib_keepsInv hrun ⟨hr, hp.trav_fresh (by simp [hz])⟩ _ _

/-- The decoding of a symbol: where it stops the invariant holds, and where it is complete it is left to its element. -/
theorem fetchRead_symbol_keepsInv {p : Phase} {f : Format} {tbl : HuffTable} (hmem : (p, f, tbl) ∈ s.codedPhases)
    (hphase : s.eng.phase = p)
    (helem : ∀ v i (r : Reader), decodeRow f v = some i →
      State.Running { s with rd := r, trav := Traversal.fresh } →
      State.Fresh { s with rd := r, trav := Traversal.fresh } →
      KeepsInv (exec i { s with rd := r, trav := Traversal.fresh })) :
    (fetchRead f (decodeSymbol tbl s)).KeepsInv := by
  obtain ⟨hwithin, hfield⟩ := hp.coded hmem hphase
  cases hread : decodeSymbol tbl s with
  | stop t =>
    obtain ⟨r, tr, ht, hr, hw, hok⟩ := decodeLoop_stopped hread
    have hrun := (h.withReader (hok _ h.readerOk) (by simp [hr, hfield])).withTrav tr
    exact hrun.stopped_inv (hp.withCode hmem hphase (hr.trans hfield) (hw hwithin)) ht
  | done v t =>
    obtain ⟨-, r, rfl, hr, hok⟩ := decodeLoop_done hread
    have hrun := (h.withReader (hok _ h.readerOk) (by simp [hr, hfield])).withTrav Traversal.fresh
    exact fetchDecoded_keepsInv fun i hi => helem v i r hi hrun ⟨hr.trans hfield, rfl⟩

variable (hready : s.row.rowReady = false)
include hready

/-- The continuation at every phase, with no byte of the row stream waiting. -/
theorem fetchPhase_keepsInv (hpending : s.row.pending = none) : (fetchPhase s).KeepsInv := by
  have hinv := h.inv hp
  have hfield := hp.field
  unfold fetchPhase
  split
  case h_1 => exact hinv
  case h_2 hphase => exact fetchZlib_keepsInv h hp hphase
  case h_3 hphase =>
    refine fetchRead_field_keepsInv h hp (by simp [plainPhases, hphase]) (by simp [State.fieldLimit, hphase]) ?_
    rintro v i r ⟨⟩ hrun hfresh
    exact exec_decodeBlock_keepsInv hrun hfresh _
  case h_4 hphase =>
    refine fetchRead_field_keepsInv h hp (by simp [plainPhases, hphase]) (by simp [State.fieldLimit, hphase]) ?_
    rintro v i r ⟨⟩ hrun hfresh
    exact exec_decodeStored_keepsInv hrun hfresh _ _
  case h_5 hphase =>
    split
    · rename_i hrem
      have hnone : s.rd.fieldBits = [] := by simpa [State.fieldLimit, hphase, hrem] using hfield
      exact blockEnd_inv h hready hpending ⟨hnone, hp.trav_fresh (by simp [hphase])⟩
    · rename_i hrem
      refine fetchRead_field_keepsInv h hp (by simp [plainPhases, hphase])
        (by simp [State.fieldLimit, hphase, hrem]) ?_
      rintro v i r ⟨⟩ hrun hfresh
      exact exec_storedByte_keepsInv hrun hready hfresh hphase _
  case h_6 hphase =>
    refine fetchRead_field_keepsInv h hp (by simp [plainPhases, hphase]) (by simp [State.fieldLimit, hphase]) ?_
    rintro v i r ⟨⟩ hrun hfresh
    exact exec_decodeDyn_keepsInv hrun hfresh _ _ _
  case h_7 hphase =>
    refine fetchRead_field_keepsInv h hp (by simp [plainPhases, hphase]) (by simp [State.fieldLimit, hphase]) ?_
    rintro v i r ⟨⟩ hrun hfresh
    exact exec_cll_keepsInv hrun hfresh hphase _
  case h_8 hphase =>
    refine fetchRead_symbol_keepsInv h hp (by simp [State.codedPhases]) hphase fun v i r hi hrun hfresh => ?_
    exact exec_decodeClen_keepsInv hi hrun rfl (hp.cltSound (.inl hphase)) (hfresh.field_le _)
  case h_9 hphase =>
    refine fetchDecoded_keepsInv fun i hi => ?_
    exact exec_decodeClen_keepsInv hi h (hp.trav_fresh (by simp [hphase])) (hp.cltSound (.inr hphase))
      (by simpa [State.fieldLimit, hphase] using hfield)
  case h_10 hphase =>
    refine fetchRead_symbol_keepsInv h hp (by simp [State.codedPhases]) hphase fun v i r hi hrun hfresh => ?_
    exact exec_decodeLitlen_keepsInv hi hrun hready hpending hfresh (hp.blockSound (by simp [blockPhases, hphase]))
  case h_11 hphase =>
    refine fetchDecoded_keepsInv fun i hi => ?_
    exact exec_lengthResumed_keepsInv hi h hp hphase
  case h_12 hphase =>
    refine fetchRead_symbol_keepsInv h hp (by simp [State.codedPhases]) hphase fun v i r hi hrun hfresh => ?_
    exact exec_decodeDist_keepsInv hi hrun rfl (hp.blockSound (by simp [blockPhases, hphase]))
      (hp.lengthOk (.inl hphase)) (hfresh.field_le _)
  case h_13 hphase =>
    refine fetchDecoded_keepsInv fun i hi => ?_
    exact exec_decodeDist_keepsInv hi h (hp.trav_fresh (by simp [hphase]))
      (hp.blockSound (by simp [blockPhases, hphase])) (hp.lengthOk (.inr hphase))
      (by simpa [State.fieldLimit, hphase] using hfield)
  case h_14 hphase => exact copyByte_inv h hp hphase hready

theorem fetchRow_keepsInv (v : Byte) : (fetchRow v s).KeepsInv := by
  unfold fetchRow
  split
  · refine fetchDecoded_keepsInv fun i hi => ?_
    cases hi
    exact exec_decodeFilter_keepsInv h hp hready _
  · exact exec_filterInstr_keepsInv h hp hready _

theorem fetch_keepsInv : (fetch s).KeepsInv := by
  have hrun := h.withNeedInput false
  have hphase := hp.withNeedInput false
  cases hpending : s.row.pending with
  | none =>
    rw [fetch_of_no_row hpending]
    exact fetchPhase_keepsInv hrun hphase hready hpending
  | some v =>
    rw [fetch_of_row hpending]
    exact fetchRow_keepsInv hrun hphase hready v

end

/-- A busy engine is in RUN and no row waits. -/
theorem run_of_busy {s : State} (h : engineIdle s = false) : s.ses.state = .run ∧ s.row.rowReady = false := by
  simp only [engineIdle, Bool.or_eq_false_iff, decide_eq_false_iff_not, not_not] at h
  exact ⟨h.1.1.1, h.1.1.2⟩

/-- Every micro-step keeps the invariant. -/
theorem engineStep_inv {s t : State} (h : s.Inv) (hbusy : engineIdle s = false) (hstep : engineStep exec s = .next t) :
    t.Inv := by
  obtain ⟨hrun, hready⟩ := run_of_busy hbusy
  have hfetch := fetch_keepsInv (h.running hrun) (h.phaseOk hrun) hready
  obtain ⟨i, u, hi, hex⟩ | hi := engineStep_next_iff.mp hstep <;> rw [hi] at hfetch
  · exact hfetch t hex
  · exact hfetch

/-! ### The host's instructions -/

theorem clearSession_ranges {s : State} (h : s.Ranges) : (clearSession s).Ranges :=
  { h with
    histOk := Nat.zero_le _
    sessionOk := fun _ => ⟨rfl, rfl⟩
    readerOk := ⟨⟨Nat.zero_le 7, Nat.one_pos⟩, Nat.zero_le _, rfl, Nat.zero_le _⟩
    fieldRange := Nat.zero_le _ }

theorem abort_inv {s : State} (h : s.Ranges) : (abort s).Inv := by
  have hr : (abort s).Ranges := { clearSession_ranges h with }
  exact hr.inv_of_rest nofun rfl rfl rfl rfl rfl nofun ⟨nofun, fun _ => rfl⟩

theorem start_inv {s : State} (h : s.Ranges) : (start s).Inv := by
  have hclear := clearSession_ranges h
  unfold start
  split
  · refine State.Ranges.raise_inv ?_ _
    exact { hclear with }
  · rename_i hcfg
    refine State.Running.inv_of_plain
      { hclear with
        run := rfl
        config := ⟨hcfg, rfl, rfl⟩
        colOk := Nat.succ_pos _
        rowsOk := Nat.zero_le _
        rowOk := ⟨nofun, fun hne => absurd rfl hne⟩
        noError := rfl } ⟨rfl, rfl⟩ (by simp [plainPhases])

/-- ROW_ACK's row is one of the image, so that the count of rows does not pass the height (spec/45_defilter.md R411). -/
theorem rowCommit_running {s : State} (h : s.Running) (hready : s.row.rowReady = true) : (rowCommit s).Running := by
  obtain ⟨-, hpending, hrows⟩ := h.rowOk.1 hready
  have hheight := s.ses.height.isLt
  exact
    { h with
      priorOk := Memory.wf_copyBelow h.curOk h.priorOk
      rowsOk := by
        simp only [rowCommit_row, rowCommit_ses, BitVec.toNat_add, BitVec.toNat_ofNat]
        omega
      rowOk := ⟨nofun, fun hne => absurd hpending hne⟩ }

theorem State.Inv.respond {s : State} (h : s.Inv) (r : HostResponse) : (respond r s).Inv := h.withHost _

theorem execCtrlRowAck_inv {s t : State} (h : s.Inv) (hex : execCtrlRowAck s = .next t) : t.Inv := by
  unfold execCtrlRowAck at hex
  split at hex <;> cases hex
  · rename_i hrow
    have hrun := rowCommit_running (h.running hrow.1) hrow.2
    exact (hrun.inv ((h.phaseOk hrow.1).of_eq rfl rfl rfl rfl rfl)).respond _
  · exact h.respond _

theorem execCtrlEoi_inv {s t : State} (h : s.Inv) (hex : execCtrlEoi s = .next t) : t.Inv := by
  unfold execCtrlEoi at hex
  split at hex <;> cases hex
  · rename_i hrun
    have hr := (h.running hrun).withReader (r := { s.rd with eoi := true }) ⟨h.bitsOk, h.fifoOk, h.takenOk⟩
      (h.running hrun).fieldRange
    exact (hr.inv ((h.phaseOk hrun).of_eq rfl rfl rfl rfl rfl)).respond _
  · exact h.respond _

theorem execInDataWrite_inv {data : Word} {s t : State} (h : s.Inv) (hex : execInDataWrite data s = .next t) :
    t.Inv := by
  unfold execInDataWrite at hex
  split at hex
  · rename_i hrun
    split at hex <;> cases hex
    · exact (h.ranges.raise_inv _).respond _
    · rename_i hfull
      have hle := h.fifoOk
      have hr := (h.running hrun).withReader (r := { s.rd with fifo := s.rd.fifo ++ [data.setWidth 8] })
        (h.ranges.readerOk.withFifo (by simp only [List.length_append, List.length_singleton]; omega))
        (h.running hrun).fieldRange
      exact (hr.inv ((h.phaseOk hrun).of_eq rfl rfl rfl rfl rfl)).respond _
  · cases hex
    exact h.respond _

/-- The CFG registers are no matter of the invariant. -/
theorem State.Inv.withRegs {s : State} (h : s.Inv) (r : CfgRegs) : ({ s with regs := r } : State).Inv := { h with }

/-- Every instruction of the host keeps the invariant. -/
theorem exec_host_inv {i : Instr} {s t : State} (hi : HostInstr i) (h : s.Inv) (hex : exec i s = .next t) :
    t.Inv := by
  cases hi with
  | abort =>
    cases hex
    exact (abort_inv h.ranges).respond _
  | start =>
    cases hex
    exact (start_inv h.ranges).respond _
  | rowAck => exact execCtrlRowAck_inv h hex
  | eoi => exact execCtrlEoi_inv h hex
  | inData data => exact execInDataWrite_inv h hex
  | cfgWidth data =>
    cases hex
    exact (h.withRegs _).respond _
  | cfgHeight data =>
    cases hex
    exact (h.withRegs _).respond _
  | cfgBpp data =>
    cases hex
    exact (h.withRegs _).respond _
  | regRead offset =>
    cases hex
    exact h.respond _
  | rowRead w offset =>
    have hex : execRowRead w offset s = .next t := hex
    unfold execRowRead at hex
    split at hex <;> cases hex <;> exact h.withHost _
  | ignoredWrite w offset data =>
    cases hex
    exact h.respond _
  | busError a =>
    have hex : execBusError a s = .next t := hex
    unfold execBusError undecoded at hex
    split_ifs at hex <;> cases hex <;> exact h.respond _

/-- Settles O57: micro-steps and the host's instructions keep the invariant, and a step is made of them. -/
theorem stepKeepsInvariant : Obligations.StepKeepsInvariant := by
  intro s t h hstep
  exact step_induct (P := State.Inv) (fun _ _ => engineStep_inv) (fun _ _ _ => exec_host_inv)
    (fun _ p hs => hs.withHost p) h hstep

end Sys2Proof.Machine
end

section
/-! Reading across late input (spec/10_state.md R41, R42): a read that stops and is resumed with the bytes that have come
in the meantime goes on as if they had been queued from the beginning. -/

namespace Sys2Proof.Machine

/-- `s` with more bytes queued behind those it has. -/
def State.queued (s : State) (bs : List Byte) : State := { s with rd := { s.rd with fifo := s.rd.fifo ++ bs } }

/-- `t` resumed with the bytes `bs` as its input, and NEED_INPUT as the read found it. -/
def State.resumed (t : State) (bs : List Byte) (need : Bool) : State :=
  { t with rd := { t.rd with fifo := bs }, eng := { t.eng with needInput := need } }

/-- Bytes behind those queued do not change the next bit. -/
theorem readBit_queued {s t : State} {b : Bool} (h : readBit s = .done b t) (bs : List Byte) :
    readBit (s.queued bs) = .done b (t.queued bs) := by
  unfold readBit at h ⊢
  simp only [State.queued]
  split at h
  · rename_i hn
    split at h
    · split at h <;> cases h
    · rename_i hf
      cases h
      simp [hn, hf, Reader.takeByte]
  · rename_i hn
    cases h
    simp [hn]

/-- A `ReadBit` that suspends is resumed where it began. -/
theorem resumed_of_readBit_stop {s t : State} (h : readBit s = .stop t) (heoi : s.rd.eoi = false) (bs : List Byte) :
    t.resumed bs s.eng.needInput = s.queued bs := by
  obtain ⟨-, hf, rfl⟩ := readBit_stop h
  simp [heoi, State.resumed, State.queued, hf]

theorem readFieldLoop_resumed {n k : Nat} {s t : State} (hk : k = n - s.rd.fieldBits.length)
    (h : readFieldLoop k s = .stop t) (heoi : s.rd.eoi = false) (bs : List Byte) :
    readField n (t.resumed bs s.eng.needInput) = readFieldLoop k (s.queued bs) := by
  induction k generalizing s with
  | zero => cases h
  | succ k ih =>
    rw [readFieldLoop_succ] at h
    split at h
    · rename_i u hread
      cases h
      rw [resumed_of_readBit_stop hread heoi bs, hk]
      rfl
    · rename_i b u hread
      obtain ⟨hu, -, hfield, heoi'⟩ := readBit_done hread
      have heng : u.eng = s.eng := by rw [hu]
      have hrest := ih (by simp only [List.length_append, List.length_singleton, hfield]; omega) h
        (heoi'.trans heoi)
      rw [readFieldLoop_succ, readBit_queued hread]
      exact (congrArg (fun e => readField n (t.resumed bs (Engine.needInput e))) heng.symm).trans hrest

theorem decodeLoop_resumed {k : Nat} {tbl : HuffTable} {s t : State} (hk : k = 16 - s.trav.len)
    (h : decodeLoop tbl k s = .stop t) (heoi : s.rd.eoi = false) (hneed : t.eng.needInput = true) (bs : List Byte) :
    decodeSymbol tbl (t.resumed bs s.eng.needInput) = decodeLoop tbl k (s.queued bs) := by
  induction k generalizing s with
  | zero =>
    cases h
    cases hneed
  | succ k ih =>
    rw [decodeLoop_succ] at h
    split at h
    · rename_i u hread
      cases h
      rw [resumed_of_readBit_stop hread heoi bs, hk]
      rfl
    · rename_i b u hread
      obtain ⟨hu, -, -, heoi'⟩ := readBit_done hread
      have heng : u.eng = s.eng := by rw [hu]
      have htrav : u.trav = s.trav := by rw [hu]
      split at h
      · cases h
      · rename_i hge
        have hrest := ih (by simp only [htrav]; omega) h (heoi'.trans heoi)
        rw [decodeLoop_succ, readBit_queued hread]
        refine (congrArg (fun e => decodeSymbol tbl (t.resumed bs (Engine.needInput e))) heng.symm).trans ?_
        exact hrest.trans (if_neg hge).symm

/-- Settles O6: by induction over the bits, a read of each kind. -/
theorem splitInputReadsAlike : Obligations.SplitInputReadsAlike := by
  intro s t bs heoi hneed
  exact ⟨fun n h => readFieldLoop_resumed rfl h heoi bs, fun tbl h => decodeLoop_resumed rfl h heoi hneed bs⟩

end Sys2Proof.Machine
end

section
/-! The registers as the host reads them, and their values at reset (spec/10_state.md R48 to R65). -/

namespace Sys2Proof.Machine

/-! ### STATUS and ERROR -/

theorem SessionState.code_lt (p : SessionState) : p.code < 4 := by
  cases p <;> decide

/-- STATUS as a number: with a FIFO of fewer than 65536 bytes no field runs into the next (spec/10_state.md R50). -/
theorem status_toNat {s : State} (h : s.rd.fifo.length < 65536) :
    s.status.toNat = s.ses.state.code + 4 * s.needInputFlag.toNat + 8 * s.row.rowReady.toNat + 16 * s.rd.eoi.toNat
      + 32 * s.inFull.toNat + 64 * s.rowsComplete.toNat + 128 * s.eng.finalSeen.toNat
      + 65536 * s.rd.fifo.length := by
  have hcode := s.ses.state.code_lt
  have hneed := s.needInputFlag.toNat_le
  have hready := s.row.rowReady.toNat_le
  have heoi := s.rd.eoi.toNat_le
  have hfull := s.inFull.toNat_le
  have hrows := s.rowsComplete.toNat_le
  have hfinal := s.eng.finalSeen.toNat_le
  rw [State.status, BitVec.toNat_ofNat]
  omega

theorem errorWord_toNat (s : State) :
    s.errorWord.toNat = s.err.kind.toNat + 256 * s.err.cause.toNat + 65536 * s.err.bits.toNat := by
  have hkind := s.err.kind.isLt
  have hcause := s.err.cause.isLt
  have hbits := s.err.bits.isLt
  rw [State.errorWord, BitVec.toNat_ofNat]
  omega

theorem reset_status {c : Config} (h : 1 ≤ c.inFifoDepth) : (State.resetOf c).status = 0#32 := by
  have hfull : (State.resetOf c).inFull = false := decide_eq_false (by simp [State.resetOf]; omega)
  rw [State.status, hfull]
  rfl

/-- Settles O43: STATUS and ERROR are sums of fields that do not meet. -/
theorem statusAndErrorFields : Obligations.StatusAndErrorFields := by
  refine ⟨fun c hc => ⟨reset_status hc, rfl⟩, fun s hfifo => ⟨?status, ?error⟩⟩
  case status =>
    have hv := status_toNat hfifo
    have hcode := s.ses.state.code_lt
    have hneed := s.needInputFlag.toNat_le
    have hready := s.row.rowReady.toNat_le
    have heoi := s.rd.eoi.toNat_le
    have hfull := s.inFull.toNat_le
    have hrows := s.rowsComplete.toNat_le
    have hfinal := s.eng.finalSeen.toNat_le
    refine ⟨?_, ?_, ?_, ?_, ?_, ?_, ?_, by omega, by omega⟩
    · have hstate : s.status.toNat % 4 = s.ses.state.code := by omega
      rw [hstate]
      cases s.ses.state <;> rfl
    · have hbit : s.status.toNat / 4 % 2 = s.needInputFlag.toNat := by omega
      rw [hbit, Bool.toNat_eq_one]
      simp [State.needInputFlag]
    · have hbit : s.status.toNat / 8 % 2 = s.row.rowReady.toNat := by omega
      rw [hbit, Bool.toNat_eq_one]
    · have hbit : s.status.toNat / 16 % 2 = s.rd.eoi.toNat := by omega
      rw [hbit, Bool.toNat_eq_one]
    · have hbit : s.status.toNat / 32 % 2 = s.inFull.toNat := by omega
      rw [hbit, Bool.toNat_eq_one]
      simp [State.inFull]
    · have hbit : s.status.toNat / 64 % 2 = s.rowsComplete.toNat := by omega
      rw [hbit, Bool.toNat_eq_one]
      simp [State.rowsComplete]
    · have hbit : s.status.toNat / 128 % 2 = s.eng.finalSeen.toNat := by omega
      rw [hbit, Bool.toNat_eq_one]
  case error =>
    have he := errorWord_toNat s
    have hkind := s.err.kind.isLt
    have hcause := s.err.cause.isLt
    have hbits := s.err.bits.isLt
    refine ⟨?_, ?_, ?_, ?_, ?_⟩ <;> omega

/-! ### The register map and the ROW window -/

/-- From the end of the register map on an offset reads 0 (spec/20_memory.md R85). -/
theorem register_reserved {s : State} {offset : Nat} (h : 0x034 ≤ offset) : s.register offset = 0#32 := by
  unfold State.register
  iterate 11 rw [if_neg (by omega)]

/-- Settles O40: each offset by its row of the register map. -/
theorem regReadResult : Obligations.RegReadResult := by
  intro s reads
  have hread : ∀ offset v, s.register offset = v → reads offset v := by
    rintro offset v rfl
    rfl
  have hbpp : s.regs.cfgBpp.zeroExtend 32 = BitVec.ofNat 32 s.regs.cfgBpp.toNat :=
    (BitVec.ofNat_toNat 32 _).symm
  exact ⟨rfl, rfl, rfl, rfl, rfl, hread _ _ hbpp, rfl, rfl, rfl, rfl, rfl, rfl, rfl,
    fun offset hlow _ => hread _ _ (register_reserved hlow)⟩

theorem rowByte_toNat (s : State) (i : Nat) :
    (s.rowByte i).toNat = if i < s.ses.rowbytes then (Memory.read s.row.cur i).toNat else 0 := by
  unfold State.rowByte
  split <;> rfl

theorem execRowRead_ready {s : State} (h : s.row.rowReady = true) (w : AccessWidth) (i : Nat) :
    execRowRead w (0x1000 + i) s = .next (respond (.value (BitVec.ofNat 32 (s.rowValue w.bytes i))) s) := by
  rw [execRowRead, if_pos h, Nat.add_sub_cancel_left]

theorem execRowRead_not_ready {s : State} (h : s.row.rowReady = false) (w : AccessWidth) (offset : Nat) :
    execRowRead w offset s =
      .next
        { s with
          host :=
            { s.host with
              resp := .value (BitVec.ofNat 32 ((Config.rowWindowDraw s.host.draws).toNat % 256 ^ w.bytes))
              draws := s.host.draws + 1 } } :=
  if_neg (by simp [h])

/-- Settles O41: a ready row by the bytes of the value, a row that is not ready by the width of the draw. -/
theorem rowReadResult : Obligations.RowReadResult := by
  intro i s b reads
  refine ⟨fun hready => ?_, fun hready w => ?_⟩
  · have hread : ∀ w v, s.rowValue w.bytes i = v → reads w v := by
      rintro w v rfl
      exact execRowRead_ready hready w i
    refine ⟨hread _ _ ?_, hread _ _ ?_, hread _ _ ?_⟩ <;>
      simp only [State.rowValue, AccessWidth.bytes, rowByte_toNat, Nat.add_assoc, Nat.reduceAdd, b] <;> omega
  · refine ⟨_, ?_, execRowRead_not_ready hready w _⟩
    rw [BitVec.toNat_ofNat]
    exact (Nat.mod_le _ _).trans_lt (Nat.mod_lt _ (Nat.pow_pos (by decide)))

/-! ### Reset -/

theorem resetOf_inv {c : Config} (h : c.wf = true) : (State.resetOf c).Inv := by
  have hr : (State.resetOf c).Ranges :=
    { cfgOk := h
      winOk := rfl
      histOk := Nat.zero_le _
      sessionOk := fun _ => ⟨rfl, rfl⟩
      copyRange := ⟨Nat.zero_le _, Nat.zero_le _⟩
      curOk := rfl
      priorOk := rfl
      readerOk := ⟨⟨Nat.zero_le 7, Nat.one_pos⟩, Nat.zero_le _, rfl, Nat.zero_le _⟩
      fieldRange := Nat.zero_le _
      dynOk := ⟨rfl, Nat.zero_le _, Nat.zero_le _⟩ }
  exact hr.inv_of_rest nofun rfl rfl rfl rfl rfl nofun ⟨nofun, fun _ => rfl⟩

/-- Settles O59: the ranges are met by the values of reset, and the engine rests. -/
theorem resetHasInvariant : Obligations.ResetHasInvariant := by
  refine ⟨fun c hc => ⟨resetOf_inv hc, ⟨engineIdle_of_not_run nofun, nofun⟩⟩, resetOf_inv (by decide)⟩

/-- Settles O60: the fields by definition, the registers by the register map. -/
theorem resetValues : Obligations.ResetValues := by
  intro c hc
  refine ⟨rfl, rfl, rfl, rfl, rfl, rfl, rfl, rfl, rfl, rfl, rfl, rfl, rfl, rfl, rfl, rfl, rfl, ?_, rfl, rfl⟩
  intro offset hdepth hmax
  unfold State.register
  split_ifs
  case pos => exact reset_status hc
  all_goals rfl

end Sys2Proof.Machine
end

section
/-! Which instructions write the configuration and the session state (spec/10_state.md R31, R32; spec/48_host_interface.md
R441, R450; spec/60_exceptions.md R505). -/

namespace Sys2Proof.Machine

/-! ### The host's instructions -/

/-- START latches the configuration; the CFG registers, the parameters and the host stay. -/
theorem start_frame (s : State) : (start s).regs = s.regs ∧ (start s).cfg = s.cfg ∧ (start s).host = s.host := by
  unfold start
  split <;> exact ⟨rfl, rfl, rfl⟩

/-- What the host's other instructions leave alone: the latched configuration, and the state but for an overflow's
error. -/
theorem exec_host_session {i : Instr} {s t : State} (hi : HostInstr i) (hstart : i ≠ .ctrlStart)
    (habort : i ≠ .ctrlAbort) (hex : exec i s = .next t) :
    t.ses = { s.ses with state := t.ses.state }
      ∧ (t.ses.state = s.ses.state ∨ s.ses.state = .run ∧ t.ses.state = .error) := by
  cases hi with
  | abort => exact absurd rfl habort
  | start => exact absurd rfl hstart
  | rowAck =>
    have hex : execCtrlRowAck s = .next t := hex
    unfold execCtrlRowAck at hex
    split at hex <;> cases hex <;> exact ⟨rfl, .inl rfl⟩
  | eoi =>
    have hex : execCtrlEoi s = .next t := hex
    unfold execCtrlEoi at hex
    split at hex <;> cases hex <;> exact ⟨rfl, .inl rfl⟩
  | inData data =>
    have hex : execInDataWrite data s = .next t := hex
    unfold execInDataWrite at hex
    split_ifs at hex with hrun hfull <;> cases hex
    · exact ⟨rfl, .inr ⟨hrun, rfl⟩⟩
    · exact ⟨rfl, .inl rfl⟩
    · exact ⟨rfl, .inl rfl⟩
  | rowRead w offset =>
    have hex : execRowRead w offset s = .next t := hex
    unfold execRowRead at hex
    split at hex <;> cases hex <;> exact ⟨rfl, .inl rfl⟩
  | busError a =>
    have hex : execBusError a s = .next t := hex
    unfold execBusError undecoded at hex
    split_ifs at hex <;> cases hex <;> exact ⟨rfl, .inl rfl⟩
  | cfgWidth data | cfgHeight data | cfgBpp data | regRead offset | ignoredWrite w offset data =>
    cases hex
    exact ⟨rfl, .inl rfl⟩

/-- The host's instructions leave the parameters and the host's queue alone, and the CFG registers but for a CFG
write. -/
theorem exec_host_registers {i : Instr} {s t : State} (hi : HostInstr i) (hex : exec i s = .next t) :
    ((∀ d, i ≠ .cfgWidthWrite d) → (∀ d, i ≠ .cfgHeightWrite d) → (∀ d, i ≠ .cfgBppWrite d) → t.regs = s.regs)
      ∧ t.cfg = s.cfg ∧ t.host.queue = s.host.queue := by
  cases hi with
  | start =>
    cases hex
    obtain ⟨hregs, hcfg, hhost⟩ := start_frame s
    have hqueue : (start s).host.queue = s.host.queue := by rw [hhost]
    exact ⟨fun _ _ _ => hregs, hcfg, hqueue⟩
  | rowAck =>
    have hex : execCtrlRowAck s = .next t := hex
    unfold execCtrlRowAck at hex
    split at hex <;> cases hex <;> exact ⟨fun _ _ _ => rfl, rfl, rfl⟩
  | eoi =>
    have hex : execCtrlEoi s = .next t := hex
    unfold execCtrlEoi at hex
    split at hex <;> cases hex <;> exact ⟨fun _ _ _ => rfl, rfl, rfl⟩
  | inData data =>
    have hex : execInDataWrite data s = .next t := hex
    unfold execInDataWrite at hex
    split_ifs at hex <;> cases hex <;> exact ⟨fun _ _ _ => rfl, rfl, rfl⟩
  | rowRead w offset =>
    have hex : execRowRead w offset s = .next t := hex
    unfold execRowRead at hex
    split at hex <;> cases hex <;> exact ⟨fun _ _ _ => rfl, rfl, rfl⟩
  | busError a =>
    have hex : execBusError a s = .next t := hex
    unfold execBusError undecoded at hex
    split_ifs at hex <;> cases hex <;> exact ⟨fun _ _ _ => rfl, rfl, rfl⟩
  | cfgWidth data =>
    cases hex
    exact ⟨fun h _ _ => absurd rfl (h data), rfl, rfl⟩
  | cfgHeight data =>
    cases hex
    exact ⟨fun _ h _ => absurd rfl (h data), rfl, rfl⟩
  | cfgBpp data =>
    cases hex
    exact ⟨fun _ _ h => absurd rfl (h data), rfl, rfl⟩
  | abort | regRead offset | ignoredWrite w offset data =>
    cases hex
    exact ⟨fun _ _ _ => rfl, rfl, rfl⟩

/-- Settles O50: the host's instructions by what each writes, the stream's by the engine's frame. -/
theorem configurationFrame : Obligations.ConfigurationFrame := by
  intro i s t hex
  by_cases hi : HostInstr i
  · exact ⟨fun hstart habort => (exec_host_session hi hstart habort hex).1, exec_host_registers hi hex⟩
  · have hframe := EngineFrame.exec hi hex
    exact ⟨fun _ _ => hframe.config, fun _ _ _ => hframe.regs, hframe.cfg, congrArg HostPort.queue hframe.host⟩

/-! ### A session that has just begun -/

/-- After START, until a byte is queued: in ERROR, or in RUN before the zlib header with no input. -/
def State.AtHeader (s : State) : Prop :=
  s.ses.state = .error
    ∨ (s.ses.state = .run ∧ s.eng.phase = .pZhdr ∧ s.row.pending = none ∧ s.row.rowReady = false
      ∧ s.rd.fieldBits = [] ∧ s.rd.pendingBits = [])

theorem start_atHeader (s : State) : (start s).AtHeader := by
  unfold start
  split
  · exact .inl rfl
  · exact .inr ⟨rfl, rfl, rfl, rfl, rfl, rfl⟩

/-- With no input the engine can but suspend, or raise TRUNCATED. -/
theorem engineStep_atHeader {s t : State} (h : s.AtHeader) (hbusy : engineIdle s = false)
    (hstep : engineStep exec s = .next t) : t.AtHeader := by
  obtain herr | ⟨hrun, hphase, hpending, hready, hfield, hbits⟩ := h
  · rw [engineIdle_of_not_run (by simp [herr])] at hbusy
    cases hbusy
  · obtain ⟨u, hread, hends⟩ :=
      readFieldLoop_stop (s := { s with eng := { s.eng with needInput := false } }) 15 hbits
    have hstop : readField 16 { s with eng := { s.eng with needInput := false } } = .stop u := by
      rw [readField, hfield]
      exact hread
    rw [engineStep, fetch_zlib hpending hphase, fetchZlib_stop hstop] at hstep
    cases hstep
    unfold inputEnds at hends
    split at hends <;> cases hends
    · exact .inl rfl
    · exact .inr ⟨hrun, hphase, hpending, hready, hfield, hbits⟩

theorem rowAck_atHeader {s t : State} (h : s.AtHeader) (hex : exec .ctrlRowAck s = .next t) : t.AtHeader := by
  have hex : execCtrlRowAck s = .next t := hex
  unfold execCtrlRowAck at hex
  split at hex <;> cases hex
  · rename_i hrow
    obtain herr | ⟨-, -, -, hready, -⟩ := h
    · exact .inl herr
    · exact absurd (hready.symm.trans hrow.2) nofun
  · exact h

theorem eoi_atHeader {s t : State} (h : s.AtHeader) (hex : exec .ctrlEoi s = .next t) : t.AtHeader := by
  have hex : execCtrlEoi s = .next t := hex
  unfold execCtrlEoi at hex
  split at hex <;> cases hex <;> exact h

/-! ### The session state over one access -/

/-- From RUN an access leads to IDLE only by ABORT. -/
theorem abort_of_idle {is : List Instr} {s t : State} (h : hostOperations exec is s = .next t)
    (hhost : ∀ i ∈ is, HostInstr i) (hrun : s.ses.state = .run) (hidle : t.ses.state = .idle) : .ctrlAbort ∈ is := by
  refine hostOperations_induct (P := fun u => u.ses.state = .idle → .ctrlAbort ∈ is) ?_ ?_ (by simp [hrun]) h hidle
  case refine_1 =>
    intro u v hu _ hstep hv
    obtain hsame | hdone | herr := (engineStep_framed hstep).state
    · exact hu (hsame ▸ hv)
    · rw [hdone] at hv
      cases hv
    · rw [herr] at hv
      cases hv
  case refine_2 =>
    intro i hi u v hu hex hv
    by_cases hstart : i = .ctrlStart
    · subst hstart
      cases hex
      obtain herr | ⟨hrun, -⟩ := start_atHeader u
      · exact absurd (herr.symm.trans hv) nofun
      · exact absurd (hrun.symm.trans hv) nofun
    by_cases habort : i = .ctrlAbort
    · exact habort ▸ hi
    obtain hsame | ⟨-, herr⟩ := (exec_host_session (hhost i hi) hstart habort hex).2
    · exact hu (hsame ▸ hv)
    · rw [herr] at hv
      cases hv

/-- Where an access's instructions can have led from outside RUN: nowhere, to the beginning of a session by START, to
IDLE by ABORT. -/
def LedTo (is : List Instr) (s u : State) : Prop :=
  u.ses.state = s.ses.state ∨ (.ctrlStart ∈ is ∧ u.AtHeader) ∨ (.ctrlAbort ∈ is ∧ u.ses.state = .idle)

theorem ledTo_of_not_run {w : Nat} {a : HostAccess} {s t : State}
    (h : hostOperations exec (decodeAccess w a) s = .next t) (hrun : s.ses.state ≠ .run) : LedTo (decodeAccess w a) s t := by
  refine hostOperations_induct (P := LedTo (decodeAccess w a) s) ?_ ?_ (.inl rfl) h
  case refine_1 =>
    intro u v hu hbusy hstep
    have hurun := (run_of_busy hbusy).1
    obtain hsame | ⟨hstart, hheader⟩ | ⟨-, hidle⟩ := hu
    · exact absurd (hsame.symm.trans hurun) hrun
    · exact .inr (.inl ⟨hstart, engineStep_atHeader hheader hbusy hstep⟩)
    · exact absurd (hidle.symm.trans hurun) nofun
  case refine_2 =>
    intro i hi u v hu hex
    by_cases hstart : i = .ctrlStart
    · subst hstart
      cases hex
      exact .inr (.inl ⟨hi, start_atHeader u⟩)
    by_cases habort : i = .ctrlAbort
    · subst habort
      cases hex
      exact .inr (.inr ⟨hi, rfl⟩)
    have hstate := (exec_host_session (decodeAccess_host hi) hstart habort hex).2
    obtain hsame | ⟨hmem, hheader⟩ | ⟨hmem, hidle⟩ := hu
    · obtain hkeep | ⟨hurun, -⟩ := hstate
      · exact .inl (hkeep.trans hsame)
      · exact absurd (hsame.symm.trans hurun) hrun
    · obtain rfl | rfl | rfl := decodeAccess_of_start hmem i hi
      · exact absurd rfl hstart
      · exact .inr (.inl ⟨hmem, rowAck_atHeader hheader hex⟩)
      · exact .inr (.inl ⟨hmem, eoi_atHeader hheader hex⟩)
    · obtain hkeep | ⟨hurun, -⟩ := hstate
      · exact .inr (.inr ⟨hmem, hkeep.trans hidle⟩)
      · exact absurd (hidle.symm.trans hurun) nofun

/-- A step of an idle machine that changes the session state performs an access that the block decodes. -/
theorem access_of_state_change {s t : State} (hidle : engineIdle s = true) (hstep : step s = .next t)
    (hne : t.ses.state ≠ s.ses.state) :
    ∃ a rest, s.host.queue = a :: rest
      ∧ hostOperations exec (s.accessInstrs a) { s with host := { s.host with queue := rest } } = .next t := by
  cases hqueue : s.host.queue with
  | nil =>
    simp only [step, stepWith, hidle, hqueue, if_true] at hstep
    cases hstep
    exact absurd rfl hne
  | cons a rest =>
    refine ⟨a, rest, rfl, ?_⟩
    rw [step_access hidle hqueue, hostAccess] at hstep
    split at hstep
    · unfold undecoded at hstep
      split at hstep <;> cases hstep
      exact absurd rfl hne
    · exact hstep

/-- Settles O52: from RUN by what leads to IDLE and by the invariant of DONE, from outside RUN by where an access can
lead. -/
theorem stateTransitions : Obligations.StateTransitions := by
  intro s t hinv hquiet hstep hne
  have htinv := stepKeepsInvariant s t hinv hstep
  obtain ⟨a, rest, hqueue, hops⟩ := access_of_state_change hquiet.idle hstep hne
  by_cases hrun : s.ses.state = .run
  · have hidle := abort_of_idle hops (fun _ => decodeAccess_host) hrun
    exact ⟨fun h => absurd (h.trans hrun.symm) hne, fun h => ⟨a, rest, hqueue, hidle h⟩,
      fun h => ⟨hrun, htinv.doneOk h⟩, fun _ => .inl hrun⟩
  · obtain hsame | ⟨hmem, herr | ⟨htrun, -⟩⟩ | ⟨hmem, htidle⟩ := ledTo_of_not_run hops hrun
    · exact absurd hsame hne
    · rw [herr]
      exact ⟨nofun, nofun, nofun, fun _ => .inr ⟨a, rest, hqueue, hmem⟩⟩
    · rw [htrun]
      exact ⟨fun _ => ⟨a, rest, hqueue, hmem⟩, nofun, nofun, nofun⟩
    · rw [htidle]
      exact ⟨nofun, fun _ => ⟨a, rest, hqueue, hmem⟩, nofun, nofun⟩

end Sys2Proof.Machine
end

section
/-! What one access of the host does in a step of an idle machine (spec/20_memory.md R83 to R87,
spec/48_host_interface.md R454, R455). -/

namespace Sys2Proof.Machine

/-! ### One operation -/

theorem hostOperations_singleton (i : Instr) (s : State) : hostOperations exec [i] s = hostOperation exec i s := by
  rw [hostOperations]
  cases hostOperation exec i s <;> rfl

theorem hostOperation_of_ne {i : Instr} (h : ∀ b, i ≠ .busError b) (s : State) :
    hostOperation exec i s = andThen (exec i s) (runEngine exec) := by
  unfold hostOperation
  split
  · exact absurd rfl (h _)
  · rfl

theorem popAccess_of_queue {s : State} {a : BusAccess} {rest : List BusAccess} (hq : s.host.queue = a :: rest) :
    s.popAccess = { s with host := { s.host with queue := rest } } := by
  rw [State.popAccess, hq, List.tail_cons]

/-- An access to the block that stands for one instruction is that operation. -/
theorem step_operation {s : State} {a : BusAccess} {rest : List BusAccess} {i : Instr} (hidle : engineIdle s = true)
    (hq : s.host.queue = a :: rest) (hbase : s.cfg.baseAddr ≤ a.addr) (hi : s.accessInstrs a = [i]) :
    step s = hostOperation exec i s.popAccess := by
  rw [popAccess_of_queue hq, step_access hidle hq, hostAccess, if_neg (Nat.not_lt_of_le hbase),
    ← hostOperations_singleton, ← hi]
  rfl

/-- An access below `BASE_ADDR` is the platform's (spec/20_memory.md R85, R88). -/
theorem step_below_base {s : State} {a : BusAccess} {rest : List BusAccess} (hidle : engineIdle s = true)
    (hq : s.host.queue = a :: rest) (hlow : a.addr < s.cfg.baseAddr) :
    step s = undecoded { s with host := { s.host with queue := rest } } := by
  rw [step_access hidle hq, hostAccess, if_pos hlow]

/-- Settles O46: no access, an access of one instruction, an access below the block. -/
theorem stepRunsHostAccess : Obligations.StepRunsHostAccess := by
  intro s hidle
  refine ⟨?none, ?one, ?below⟩
  case none =>
    intro hq
    simp only [step, stepWith, hidle, hq, if_true]
  case one =>
    intro a rest i hq hbase hi
    rw [step_operation hidle hq hbase hi]
    refine ⟨fun hne => hostOperation_of_ne hne _, ?_⟩
    rintro b rfl
    rfl
  case below =>
    intro a rest hq hlow
    exact step_below_base hidle hq hlow

/-! ### Bus errors -/

theorem execBusError_misaccess {a : HostAccess} (h : a.misaccess = true) (s : State) :
    execBusError a s = .next (respond .busError s) := if_pos h

theorem execBusError_undecoded {a : HostAccess} (h : a.misaccess = false) (s : State) :
    execBusError a s = undecoded s := if_neg (by simp [h])

theorem misaccess_iff (a : HostAccess) :
    a.misaccess = true ↔ (a.width ≠ .b4 ∧ a.offset < 0x1000) ∨ a.offset % a.width.bytes ≠ 0 := by
  simp only [HostAccess.misaccess, Bool.or_eq_true, Bool.and_eq_true, decide_eq_true_eq]
  rw [and_comm]

theorem decodeAccess_misaccess {a : HostAccess} (h : a.misaccess = true) (w : Nat) :
    decodeAccess w a = [.busError a] := if_pos (by simp [h])

theorem decodeAccess_past_window {a : HostAccess} {w : Nat} (h : 0x1000 + w ≤ a.offset) :
    decodeAccess w a = [.busError a] := by
  have hbytes : 0 < a.width.bytes := by cases a.width <;> decide
  have hdecoded : a.decoded w = false := decide_eq_false (by omega)
  exact if_pos (by simp [hdecoded])

/-- Settles O42: the two answers of BUS_ERROR, and the accesses that decode to it. -/
theorem busErrorResult : Obligations.BusErrorResult := by
  intro a s
  refine ⟨?given, ?refused, ?misaccess, ?undecoded⟩
  case given =>
    intro h
    show execBusError a s = .next (respond .busError s)
    by_cases hmis : a.misaccess = true
    · exact execBusError_misaccess hmis s
    · rw [execBusError_undecoded (by simpa using hmis)]
      exact if_pos (h.resolve_left hmis)
  case refused =>
    intro hmis hplatform
    exact (execBusError_undecoded hmis s).trans (if_neg (by simp [hplatform]))
  case misaccess =>
    intro b rest hidle hq hbase hmis
    have hmis : HostAccess.misaccess ⟨b.op, b.width, b.addr - s.cfg.baseAddr⟩ = true := (misaccess_iff _).mpr hmis
    rw [step_operation hidle hq hbase (decodeAccess_misaccess hmis _), popAccess_of_queue hq]
    exact execBusError_misaccess hmis _
  case undecoded =>
    intro b rest hidle hq haddr
    obtain hlow | ⟨hpast, halign⟩ := haddr
    · exact step_below_base hidle hq hlow
    · have hoffset : 0x1000 + s.cfg.rowWinSize ≤ b.addr - s.cfg.baseAddr := by omega
      have hmis : HostAccess.misaccess ⟨b.op, b.width, b.addr - s.cfg.baseAddr⟩ = false := by
        rw [← Bool.not_eq_true, misaccess_iff]
        rintro (⟨-, hlow⟩ | hne)
        · dsimp only at hlow
          omega
        · exact hne halign
      rw [step_operation hidle hq (by omega) (decodeAccess_past_window hoffset), popAccess_of_queue hq]
      exact execBusError_undecoded hmis _

/-! ### Reads -/

/-- What a read can stand for (spec/30_encoding.md R136). -/
theorem decodeAccess_read {a : HostAccess} (h : a.op = .read) (w : Nat) :
    ∃ i, decodeAccess w a = [i] ∧ (i = .busError a ∨ i = .regRead a.offset ∨ i = .rowRead a.width a.offset) := by
  unfold decodeAccess
  simp only [h]
  split
  · exact ⟨_, rfl, .inl rfl⟩
  · split
    · exact ⟨_, rfl, .inr (.inl rfl)⟩
    · exact ⟨_, rfl, .inr (.inr rfl)⟩

/-- From `s` to `t` only the host's response and its free values have changed. -/
def HostOnly (s t : State) : Prop := t = { s with host := t.host } ∧ t.host.queue = s.host.queue

theorem undecoded_hostOnly {s t : State} (h : undecoded s = .next t) : HostOnly s t := by
  unfold undecoded at h
  split at h <;> cases h
  exact ⟨rfl, rfl⟩

theorem execBusError_hostOnly {a : HostAccess} {s t : State} (h : execBusError a s = .next t) : HostOnly s t := by
  cases hmis : a.misaccess with
  | true =>
    rw [execBusError_misaccess hmis] at h
    cases h
    exact ⟨rfl, rfl⟩
  | false =>
    rw [execBusError_undecoded hmis] at h
    exact undecoded_hostOnly h

theorem execRowRead_hostOnly {w : AccessWidth} {offset : Nat} {s t : State} (h : execRowRead w offset s = .next t) :
    HostOnly s t := by
  unfold execRowRead at h
  split at h <;> cases h <;> exact ⟨rfl, rfl⟩

/-- A run of an idle engine does nothing. -/
theorem runEngine_idle {s : State} (h : engineIdle s = true) : runEngine exec s = .next s := runSteps_idle _ h

/-- After an instruction that changes the host's fields only, an idle engine has nothing to run. -/
theorem hostOnly_of_run {i : Instr} {s t : State} (hidle : engineIdle s = true)
    (hexec : ∀ u, exec i s = .next u → HostOnly s u) (h : andThen (exec i s) (runEngine exec) = .next t) :
    HostOnly s t := by
  obtain ⟨u, hex, hrun⟩ := andThen_next_iff.mp h
  have hu := hexec u hex
  have hidle' : engineIdle u = true := by
    rw [hu.1]
    exact hidle
  rw [runEngine_idle hidle'] at hrun
  cases hrun
  exact hu

theorem hostAccess_read_hostOnly {a : BusAccess} {s t : State} (hread : a.op = .read) (hidle : engineIdle s = true)
    (h : hostAccess exec a s = .next t) : HostOnly s t := by
  unfold hostAccess at h
  split at h
  · exact undecoded_hostOnly h
  · obtain ⟨i, hdec, hi⟩ := decodeAccess_read (a := ⟨a.op, a.width, a.addr - s.cfg.baseAddr⟩) hread s.cfg.rowWinSize
    rw [hdec, hostOperations_singleton] at h
    obtain rfl | rfl | rfl := hi
    · exact execBusError_hostOnly h
    · refine hostOnly_of_run (i := .regRead _) hidle (fun u hu => ?_) h
      cases hu
      exact ⟨rfl, rfl⟩
    · exact hostOnly_of_run (i := .rowRead _ _) hidle (fun u => execRowRead_hostOnly) h

/-- Settles O49: no instruction of a read changes the block, and the idle engine does not run after it. -/
theorem readsHaveNoSideEffect : Obligations.ReadsHaveNoSideEffect := by
  intro s t a rest hidle hq hread hstep
  rw [step_access hidle hq] at hstep
  exact hostAccess_read_hostOnly (s := { s with host := { s.host with queue := rest } }) hread hidle hstep

end Sys2Proof.Machine
end

section
/-! Every run of the engine ends in quiescence (spec/48_host_interface.md R455, R456): a micro-step of a busy engine
either leads to a quiescent state, or leaves NEED_INPUT clear and `runMeasure` smaller. -/

namespace Sys2Proof.Machine

/-! ### Quiescent states -/

theorem quiet_of_not_run {s : State} (hrun : s.ses.state ≠ .run) (hneed : s.eng.needInput = false) : s.Quiet :=
  ⟨engineIdle_of_not_run hrun, fun h => absurd (hneed.symm.trans h) nofun⟩

theorem raise_quiet (c : Cause) (s : State) : (raise c s).Quiet := quiet_of_not_run nofun rfl

theorem endOfStream_quiet (s : State) : (endOfStream s).Quiet := by
  unfold endOfStream
  split
  · exact raise_quiet _ s
  · exact quiet_of_not_run nofun rfl

/-- A state in which a bit is awaited has a continuation. -/
theorem continues_of_awaitsBit {s : State} (h : s.awaitsBit = true) :
    s.eng.phase ≠ .pNone ∧ s.row.pending = none := by
  simp only [State.awaitsBit, Bool.and_eq_true, decide_eq_true_eq] at h
  refine ⟨fun hp => ?_, h.1⟩
  simp [hp] at h

/-! ### The engine between two elements -/

/-- The engine is in RUN, nothing waits in the row stream, and NEED_INPUT has been recomputed (spec/10_state.md R63). -/
structure State.Working (s : State) : Prop where
  run : s.ses.state = .run
  ready : s.row.rowReady = false
  pending : s.row.pending = none
  need : s.eng.needInput = false

/-! ### Reads that stop -/

/-- Where a read stops, the error has been raised, or the engine waits for a byte with no bit left. -/
def State.InputEnded (t : State) : Prop :=
  (t.ses.state = .error ∧ t.eng.needInput = false) ∨ (needsByte t = true ∧ t.rd.nbits = 0)

theorem readBit_stop_ended {s t : State} (h : readBit s = .stop t) : t.InputEnded := by
  obtain ⟨hbits, hfifo, rfl⟩ := readBit_stop h
  split
  · exact .inl ⟨rfl, rfl⟩
  · rename_i heoi
    exact .inr ⟨by simp [needsByte, hfifo, heoi], hbits⟩

theorem readFieldLoop_stop_ended {k : Nat} {s t : State} (h : readFieldLoop k s = .stop t) : t.InputEnded := by
  induction k generalizing s with
  | zero => cases h
  | succ k ih =>
    rw [readFieldLoop_succ] at h
    split at h
    · rename_i u hread
      cases h
      exact readBit_stop_ended hread
    · exact ih h

/-- A code that is suspended has fewer than 15 bits: the next one is read before the traversal gives up. -/
theorem decodeLoop_stop_ended {k : Nat} {tbl : HuffTable} {s t : State} (hk : k = 16 - s.trav.len)
    (h : decodeLoop tbl k s = .stop t) : t.InputEnded ∧ (t.eng.needInput = true → t.trav.len ≤ 15) := by
  induction k generalizing s with
  | zero =>
    cases h
    exact ⟨.inl ⟨rfl, rfl⟩, nofun⟩
  | succ k ih =>
    rw [decodeLoop_succ] at h
    split at h
    · rename_i u hread
      cases h
      refine ⟨readBit_stop_ended hread, fun _ => ?_⟩
      obtain ⟨-, -, rfl⟩ := readBit_stop hread
      split <;> simp only [raise_trav] <;> omega
    · rename_i b u hread
      obtain ⟨hu, -⟩ := readBit_done hread
      have htrav : u.trav = s.trav := by rw [hu]
      split at h
      · cases h
      · exact ih (by simp only [htrav]; omega) h

/-- A read that stops where the phase awaits a bit leaves the engine quiescent. -/
theorem Stopped.quiet {u t : State} (h : Stopped u t) (hu : u.Working) (hended : t.InputEnded)
    (hawait : t.eng.needInput = true → u.awaitsBit = true) : t.Quiet := by
  obtain ⟨c, rfl⟩ | rfl := h
  · exact raise_quiet c u
  · obtain ⟨-, hneed⟩ | ⟨hbyte, hbits⟩ := hended
    · cases hneed
    · exact ⟨by simp [engineIdle, hbyte], fun _ => ⟨hu.run, hu.ready, hbyte, hbits, hawait rfl⟩⟩

theorem readField_stop_quiet {n : Nat} {s t : State} (hs : s.Working) (h : readField n s = .stop t)
    (hawait : ∀ r : Reader, r.fieldBits.length < n → State.awaitsBit { s with rd := r } = true) : t.Quiet := by
  obtain ⟨r, ht, hr, -⟩ := readField_stopped h
  exact ht.quiet ⟨hs.run, hs.ready, hs.pending, hs.need⟩ (readFieldLoop_stop_ended h) fun _ => hawait r hr

theorem decodeSymbol_stop_quiet {tbl : HuffTable} {s t : State} (hs : s.Working) (h : decodeSymbol tbl s = .stop t)
    (hawait : ∀ (r : Reader) (tr : Traversal), tr.len ≤ 15 → State.awaitsBit { s with rd := r, trav := tr } = true) :
    t.Quiet := by
  obtain ⟨r, tr, ht, -⟩ := decodeLoop_stopped h
  obtain ⟨hended, hlen⟩ := decodeLoop_stop_ended rfl h
  have htrav : t.trav = tr := by obtain ⟨c, rfl⟩ | rfl := ht <;> rfl
  exact ht.quiet ⟨hs.run, hs.ready, hs.pending, hs.need⟩ hended fun hneed => hawait r tr (htrav ▸ hlen hneed)

/-! ### What a read takes from the measure -/

/-- What the input left, and a field that is being read, weigh in `runMeasure`. -/
def Reader.load (r : Reader) : Nat := 2560 * (r.nbits + 8 * r.fifo.length) + if r.fieldBits = [] then 0 else 1200

theorem Reader.pendingBits_length (r : Reader) : r.pendingBits.length = r.nbits + 8 * r.fifo.length := by
  have hbytes : (r.fifo.flatMap byteBits).length = 8 * r.fifo.length := by
    simp [List.length_flatMap, byteBits, natBits_length, Nat.mul_comm]
  rw [Reader.pendingBits, List.length_append, natBits_length, hbytes]

theorem readBit_done_length {s t : State} {b : Bool} (h : readBit s = .done b t) :
    s.rd.nbits + 8 * s.rd.fifo.length = t.rd.nbits + 8 * t.rd.fifo.length + 1 := by
  obtain ⟨-, hpend, -⟩ := readBit_done h
  rw [← Reader.pendingBits_length, ← Reader.pendingBits_length, hpend, List.length_cons]

theorem readFieldLoop_done_length {k v : Nat} {s t : State} (h : readFieldLoop k s = .done v t) :
    s.rd.nbits + 8 * s.rd.fifo.length = t.rd.nbits + 8 * t.rd.fifo.length + k := by
  induction k generalizing s with
  | zero =>
    cases h
    rfl
  | succ k ih =>
    rw [readFieldLoop_succ] at h
    split at h
    · cases h
    · rename_i b u hread
      have hbit := readBit_done_length hread
      have hrest := ih h
      dsimp only at hrest
      omega

theorem readField_done_load {n v : Nat} {s t : State} (h : readField n s = .done v t) :
    t.rd.load ≤ s.rd.load ∧ (0 < n → t.rd.load + 1200 ≤ s.rd.load) := by
  have hlen := readFieldLoop_done_length h
  obtain ⟨-, r, rfl, hr, -⟩ := readFieldLoop_done h
  simp only [Reader.load, hr, if_true] at hlen ⊢
  split
  · rename_i hnone
    simp only [hnone, List.length_nil] at hlen
    omega
  · omega

theorem decodeLoop_done_length {k v : Nat} {tbl : HuffTable} {s t : State} (h : decodeLoop tbl k s = .done v t) :
    t.rd.nbits + 8 * t.rd.fifo.length + 1 ≤ s.rd.nbits + 8 * s.rd.fifo.length := by
  induction k generalizing s with
  | zero => cases h
  | succ k ih =>
    rw [decodeLoop_succ] at h
    split at h
    · cases h
    · rename_i b u hread
      have hbit := readBit_done_length hread
      split at h
      · cases h
        dsimp only
        omega
      · have hrest := ih h
        dsimp only at hrest
        omega

theorem decodeSymbol_done_load {v : Nat} {tbl : HuffTable} {s t : State} (h : decodeSymbol tbl s = .done v t) :
    t.rd.load + 2560 ≤ s.rd.load := by
  have hlen := decodeLoop_done_length h
  obtain ⟨-, r, rfl, hr, -⟩ := decodeLoop_done h
  dsimp only at hlen ⊢
  simp only [Reader.load, hr]
  omega

/-! ### Progress -/

/-- What the input left and the bytes left to copy weigh in `runMeasure`. -/
def State.burden (s : State) : Nat := s.rd.load + 2 * s.eng.copyLen.toNat

theorem runMeasure_eq (s : State) :
    runMeasure s = s.burden + (if s.row.pending = none then 0 else 1) + phaseMeasure s :=
  rfl

/-- A micro-step from a state of measure `m` has led to `t`: quiescent, or nearer to it. -/
def Advances (m : Nat) (t : State) : Prop := t.Quiet ∨ (t.eng.needInput = false ∧ runMeasure t < m)

theorem Advances.of_burden {m : Nat} {t : State} (hneed : t.eng.needInput = false) (hphase : phaseMeasure t ≤ 1)
    (hm : t.burden + 2 < m) : Advances m t := by
  refine .inr ⟨hneed, ?_⟩
  rw [runMeasure_eq]
  split <;> omega

theorem raise_advances (m : Nat) (c : Cause) (s : State) : Advances m (raise c s) := .inl (raise_quiet c s)

theorem phaseMeasure_of_plain {s : State} (hp : s.eng.phase ∈ plainPhases) : phaseMeasure s ≤ 1 := by
  simp only [plainPhases, List.mem_cons, List.not_mem_nil, or_false] at hp
  unfold phaseMeasure
  obtain hp | hp | hp | hp | hp | hp := hp <;> simp only [hp, Nat.zero_le]
  split <;> omega

/-- At a block's end the engine is at the next block's header, or the stream has ended. -/
theorem blockEnd_advances {m : Nat} {s : State} (hs : s.Working) (hm : s.burden < m) : Advances m (blockEnd s) := by
  unfold blockEnd
  split
  · exact .inl (endOfStream_quiet s)
  · refine .inr ⟨hs.need, ?_⟩
    rw [runMeasure_eq]
    simpa [hs.pending, phaseMeasure, State.burden] using hm

theorem alignToByte_burden_le (s : State) : (alignToByte s).burden ≤ s.burden := by
  have hbits : 0 + 8 * s.rd.fifo.length ≤ s.rd.nbits + 8 * s.rd.fifo.length := by omega
  exact Nat.add_le_add_right (Nat.add_le_add_right (Nat.mul_le_mul_left 2560 hbits) _) _

/-- `Emit` adds at most the byte for the row stream. -/
theorem emit_measure (v : Byte) {s : State} (hpending : s.row.pending = none) :
    runMeasure (emit v s) ≤ runMeasure s + 1 := by
  have hphase : phaseMeasure (emit v s) = phaseMeasure s := rfl
  have hburden : (emit v s).burden = s.burden := rfl
  rw [runMeasure_eq, runMeasure_eq, hphase, hburden, hpending]
  split <;> simp only [if_true] <;> omega

/-- Every state the outcome answers is nearer to quiescence than `m`. -/
def ResultAdvances (m : Nat) (o : Result) : Prop := ∀ t, o = .next t → Advances m t

theorem resultAdvances_next {m : Nat} {s : State} (h : Advances m s) : ResultAdvances m (.next s) := by
  rintro t ht
  cases ht
  exact h

/-! ### The elements of the stream -/

section
variable {m : Nat} {s : State} (hs : s.Working) (hm : s.burden + 1100 ≤ m)
include hs hm

/-- An element that takes nothing from the reader and leaves the copy as it is, at a phase that weighs little. -/
theorem advances_of_same {t : State} (hrd : t.rd = s.rd) (hlen : t.eng.copyLen = s.eng.copyLen)
    (hneed : t.eng.needInput = s.eng.needInput) (hphase : phaseMeasure t ≤ 1) : Advances m t := by
  refine .of_burden (hneed.trans hs.need) hphase ?_
  rw [State.burden, hrd, hlen, ← State.burden]
  omega

theorem exec_decodeZlib_advances (cmf flg : Byte) : ResultAdvances m (exec (decodeZlib cmf flg) s) := by
  unfold decodeZlib
  split_ifs
  case neg => exact resultAdvances_next (advances_of_same hs hm rfl rfl rfl (Nat.zero_le 1))
  all_goals exact resultAdvances_next (raise_advances m _ s)

theorem exec_decodeBlock_advances (v : Nat) : ResultAdvances m (exec (decodeBlock v) s) := by
  unfold decodeBlock
  dsimp only
  split_ifs
  · refine resultAdvances_next (.of_burden hs.need (Nat.zero_le 1) ?_)
    have hle : (alignToByte (blockHeader (v % 2 == 1) 0#2 .pStoredHdr s)).burden ≤ s.burden :=
      alignToByte_burden_le _
    omega
  · exact resultAdvances_next (advances_of_same hs hm rfl rfl rfl (Nat.zero_le 1))
  · exact resultAdvances_next (advances_of_same hs hm rfl rfl rfl (Nat.zero_le 1))
  · exact resultAdvances_next (raise_advances m _ _)

theorem exec_decodeStored_advances (len nlen : BitVec 16) : ResultAdvances m (exec (decodeStored len nlen) s) := by
  unfold decodeStored
  split_ifs
  · exact resultAdvances_next (advances_of_same hs hm rfl rfl rfl (phaseMeasure_of_plain (by simp [plainPhases])))
  · exact resultAdvances_next (raise_advances m _ s)

theorem exec_storedByte_advances (hp : s.eng.phase = .pStoredCopy) (v : Byte) :
    ResultAdvances m (exec (.storedByte v) s) :=
  resultAdvances_next (advances_of_same hs hm rfl rfl rfl (phaseMeasure_of_plain (by simp [plainPhases, hp])))

theorem exec_decodeDyn_advances (hlit hdist : BitVec 5) (hclen : BitVec 4) :
    ResultAdvances m (exec (decodeDyn hlit hdist hclen) s) := by
  unfold decodeDyn
  split_ifs
  · exact resultAdvances_next (advances_of_same hs hm rfl rfl rfl (Nat.zero_le 1))
  · exact resultAdvances_next (raise_advances m _ _)

theorem exec_cll_advances (hp : s.eng.phase = .pDynClen) (length : BitVec 3) :
    ResultAdvances m (exec (.cll length) s) := by
  show ResultAdvances m (execCll length s)
  unfold execCll
  dsimp only
  split_ifs
  · exact resultAdvances_next
      (advances_of_same hs hm rfl rfl rfl (phaseMeasure_of_plain (by simp [plainPhases, hp])))
  · exact resultAdvances_next (advances_of_same hs hm rfl rfl rfl (Nat.zero_le 1))
  · exact resultAdvances_next (raise_advances m _ _)

theorem buildBlockTables_advances : Advances m (buildBlockTables s) := by
  unfold buildBlockTables
  dsimp only
  split_ifs
  · exact raise_advances m _ s
  · exact advances_of_same hs hm rfl rfl rfl (Nat.zero_le 1)
  · exact raise_advances m _ _
  · exact raise_advances m _ _

theorem appendLengths_advances (n : Nat) (v : BitVec 4) : Advances m (appendLengths n v s) := by
  unfold appendLengths
  dsimp only
  split
  · exact advances_of_same hs hm rfl rfl rfl (Nat.zero_le 1)
  · exact buildBlockTables_advances ⟨hs.run, hs.ready, hs.pending, hs.need⟩ hm

theorem repeatLengths_advances (n : Nat) (v : BitVec 4) : Advances m (repeatLengths n v s) := by
  unfold repeatLengths
  split
  · exact raise_advances m _ s
  · exact appendLengths_advances hs hm n v

/-- A repeat symbol, begun or resumed, where a repeat of the previous length has one. -/
theorem repeatSymbol_advances {sym : BitVec 9} (hlens : sym = 16#9 → s.dyn.lens ≠ []) (base : Nat)
    (v : BitVec 4) : Advances m (repeatSymbol sym base (repeatExtra sym.toNat) v s) := by
  have hs' : State.Working { s with eng := { s.eng with phase := .pDynExtra, sym := sym } } :=
    ⟨hs.run, hs.ready, hs.pending, hs.need⟩
  unfold repeatSymbol
  split
  · rename_i t hread
    refine .inl (readField_stop_quiet hs' hread fun r hr => ?_)
    simpa [State.awaitsBit, hs.pending, hr] using not_or_of_imp hlens
  · rename_i e t hread
    have hload := (readField_done_load hread).1
    obtain ⟨-, r, rfl, -⟩ := readFieldLoop_done hread
    have hwork : State.Working { s with rd := r, eng := { s.eng with phase := .pDynExtra, sym := sym } } :=
      ⟨hs.run, hs.ready, hs.pending, hs.need⟩
    refine repeatLengths_advances hwork ?_ _ _
    exact (Nat.add_le_add_right (Nat.add_le_add_right hload _) _).trans hm

theorem exec_decodeClen_advances {v : Nat} {i : Instr} (hi : decodeClen v = some i) :
    ResultAdvances m (exec i s) := by
  unfold decodeClen at hi
  split_ifs at hi <;> cases hi
  · exact resultAdvances_next (appendLengths_advances hs hm 1 _)
  · show ResultAdvances m (execClRepeatPrev s)
    unfold execClRepeatPrev
    split
    · exact resultAdvances_next (raise_advances m _ s)
    · rename_i w hlast
      have hlens : s.dyn.lens ≠ [] := by
        intro hnil
        simp [hnil] at hlast
      exact resultAdvances_next (repeatSymbol_advances (sym := 16#9) hs hm (fun _ => hlens) 3 w)
  · exact resultAdvances_next (repeatSymbol_advances (sym := 17#9) hs hm nofun 3 _)
  · exact resultAdvances_next (repeatSymbol_advances (sym := 18#9) hs hm nofun 11 _)

/-- A length symbol, begun or resumed: the bytes to copy weigh less than the bits taken for it. -/
theorem exec_lengthRow_advances {r : Instr × Nat × Nat × Nat} (hr : r ∈ lengthRows) :
    ResultAdvances m (exec r.1 s) := by
  rw [exec_lengthRow r hr]
  obtain ⟨i, sym, base, extra⟩ := r
  obtain ⟨-, hsym, hextra, -⟩ := lengthRow_range _ hr
  dsimp only at hsym hextra ⊢
  have hnum : (BitVec.ofNat 9 sym).toNat = sym := Nat.mod_eq_of_lt (by omega)
  have hs' : State.Working { s with eng := { s.eng with phase := .pLenExtra, sym := BitVec.ofNat 9 sym } } :=
    ⟨hs.run, hs.ready, hs.pending, hs.need⟩
  refine resultAdvances_next ?_
  unfold lengthSymbol
  split
  · rename_i t hread
    refine .inl (readField_stop_quiet hs' hread fun r hr => ?_)
    simp only [State.awaitsBit, hs.pending, hnum, hextra, hr, decide_true, Bool.and_self]
  · rename_i e t hread
    have hload := (readField_done_load hread).1
    obtain ⟨-, r, rfl, -⟩ := readFieldLoop_done hread
    refine .of_burden hs.need (Nat.zero_le 1) ?_
    have hlen := (BitVec.ofNat 9 (base + e)).isLt
    simp only [State.burden] at hload hm ⊢
    omega

theorem checkDistance_advances : Advances m (checkDistance s) := by
  unfold checkDistance
  split
  · exact raise_advances m _ s
  · exact advances_of_same hs hm rfl rfl rfl (Nat.le_refl 1)

/-- A distance symbol, begun or resumed. -/
theorem exec_distanceRow_advances {r : Instr × Nat × Nat × Nat} (hr : r ∈ distanceRows) :
    ResultAdvances m (exec r.1 s) := by
  rw [exec_distanceRow r hr]
  obtain ⟨i, sym, base, extra⟩ := r
  obtain ⟨hsym, hextra, -⟩ := distanceRow_range _ hr
  dsimp only at hsym hextra ⊢
  have hnum : (BitVec.ofNat 9 sym).toNat = sym := Nat.mod_eq_of_lt (by omega)
  have hs' : State.Working { s with eng := { s.eng with phase := .pDistExtra, sym := BitVec.ofNat 9 sym } } :=
    ⟨hs.run, hs.ready, hs.pending, hs.need⟩
  refine resultAdvances_next ?_
  unfold distanceSymbol
  split
  · rename_i t hread
    refine .inl (readField_stop_quiet hs' hread fun r hr => ?_)
    simp only [State.awaitsBit, hs.pending, hnum, hextra, hr, decide_true, Bool.and_self]
  · rename_i e t hread
    have hload := (readField_done_load hread).1
    obtain ⟨-, r, rfl, -⟩ := readFieldLoop_done hread
    refine checkDistance_advances ⟨hs.run, hs.ready, hs.pending, hs.need⟩ ?_
    exact (Nat.add_le_add_right (Nat.add_le_add_right hload _) _).trans hm

theorem exec_decodeLitlen_advances {v : Nat} {i : Instr} (hi : decodeLitlen v = some i) :
    ResultAdvances m (exec i s) := by
  obtain ⟨-, rfl⟩ | ⟨-, rfl⟩ | ⟨r, hr, rfl, -⟩ | rfl | rfl := decodeLitlen_cases hi
  · exact resultAdvances_next (advances_of_same hs hm rfl rfl rfl (Nat.zero_le 1))
  · exact resultAdvances_next (blockEnd_advances hs (by omega))
  · exact exec_lengthRow_advances hs hm hr
  · exact resultAdvances_next (raise_advances m _ s)
  · exact resultAdvances_next (raise_advances m _ s)

theorem exec_decodeDist_advances {v : Nat} {i : Instr} (hi : distRows[v]? = some i) :
    ResultAdvances m (exec i s) := by
  obtain ⟨r, hr, rfl, -⟩ | rfl | rfl := decodeDist_cases hi
  · exact exec_distanceRow_advances hs hm hr
  · exact resultAdvances_next (raise_advances m _ s)
  · exact resultAdvances_next (raise_advances m _ s)

end

/-! ### The micro-step -/

/-- What the fetch leads to is nearer to quiescence than `m`. -/
def Fetch.Advances (m : Nat) : Fetch → Prop
  | .instr i u => ResultAdvances m (exec i u)
  | .internal t => Machine.Advances m t
  | .noRow _ _ => True

theorem fetchDecoded_advances {m : Nat} {f : Format} {v : Nat} {u : State}
    (h : ∀ i, decodeRow f v = some i → ResultAdvances m (exec i u)) : (fetchDecoded f v u).Advances m := by
  unfold fetchDecoded
  split
  · rename_i i hdec
    exact h i (decodeField_ok hdec)
  · trivial

section
variable {s : State} (hs : s.Working)
include hs

theorem runMeasure_of_working : runMeasure s = s.burden + phaseMeasure s := by
  rw [runMeasure_eq, if_pos hs.pending, Nat.add_zero]

/-- An element of a fixed width, at least one bit: what its instruction has to do is left to the element. -/
theorem fetchRead_field_advances {f : Format} {n : Nat} (hn : 0 < n)
    (hawait : ∀ r : Reader, r.fieldBits.length < n → State.awaitsBit { s with rd := r } = true)
    (helem : ∀ v i (r : Reader), decodeRow f v = some i → State.Working { s with rd := r } →
      State.burden { s with rd := r } + 1100 ≤ runMeasure s →
      ResultAdvances (runMeasure s) (exec i { s with rd := r })) :
    (fetchRead f (readField n s)).Advances (runMeasure s) := by
  cases hread : readField n s with
  | stop t => exact .inl (readField_stop_quiet hs hread hawait)
  | done v t =>
    have hload := (readField_done_load hread).2 hn
    obtain ⟨-, r, rfl, -⟩ := readFieldLoop_done hread
    refine fetchDecoded_advances fun i hi => helem v i r hi ⟨hs.run, hs.ready, hs.pending, hs.need⟩ ?_
    rw [runMeasure_of_working hs]
    simp only [State.burden] at hload ⊢
    omega

theorem fetchZlib_advances (hp : s.eng.phase = .pZhdr) : (fetchZlib s).Advances (runMeasure s) := by
  cases hread : readField 16 s with
  | stop t =>
    rw [fetchZlib_stop hread]
    exact .inl (readField_stop_quiet hs hread fun r hr => by simp [State.awaitsBit, hp, hs.pending, hr])
  | done v t =>
    rw [fetchZlib_done hread]
    have hload := (readField_done_load hread).2 (by decide)
    obtain ⟨-, r, rfl, -⟩ := readFieldLoop_done hread
    refine fetchDecoded_advances fun i hi => ?_
    cases hi
    have hwork : State.Working { s with rd := r } := ⟨hs.run, hs.ready, hs.pending, hs.need⟩
    refine exec_decodeZlib_advances hwork ?_ _ _
    rw [runMeasure_of_working hs]
    simp only [State.burden] at hload ⊢
    omega

/-- A coded element. -/
theorem fetchRead_symbol_advances {f : Format} {tbl : HuffTable}
    (hawait : ∀ (r : Reader) (tr : Traversal), tr.len ≤ 15 → State.awaitsBit { s with rd := r, trav := tr } = true)
    (helem : ∀ v i (r : Reader), decodeRow f v = some i → State.Working { s with rd := r, trav := Traversal.fresh } →
      State.burden { s with rd := r, trav := Traversal.fresh } + 1100 ≤ runMeasure s →
      ResultAdvances (runMeasure s) (exec i { s with rd := r, trav := Traversal.fresh })) :
    (fetchRead f (decodeSymbol tbl s)).Advances (runMeasure s) := by
  cases hread : decodeSymbol tbl s with
  | stop t => exact .inl (decodeSymbol_stop_quiet hs hread hawait)
  | done v t =>
    have hload := decodeSymbol_done_load hread
    obtain ⟨-, r, rfl, -⟩ := decodeLoop_done hread
    refine fetchDecoded_advances fun i hi => helem v i r hi ⟨hs.run, hs.ready, hs.pending, hs.need⟩ ?_
    rw [runMeasure_of_working hs]
    simp only [State.burden] at hload ⊢
    omega

/-- One iteration of COPY: a byte fewer to copy weighs more than the byte for the row stream. -/
theorem copyByte_advances (hp : s.eng.phase = .pCopy) : Advances (runMeasure s) (copyByte s) := by
  unfold copyByte
  split
  · have hwork : State.Working { s with eng := { s.eng with phase := .pSym } } :=
      ⟨hs.run, hs.ready, hs.pending, hs.need⟩
    refine .inr ⟨hs.need, ?_⟩
    rw [runMeasure_of_working hs, runMeasure_of_working hwork]
    simp [State.burden, phaseMeasure, hp]
  · rename_i hne
    have hwork : State.Working { s with eng := { s.eng with copyLen := s.eng.copyLen - 1#9 } } :=
      ⟨hs.run, hs.ready, hs.pending, hs.need⟩
    have hlen : (s.eng.copyLen - 1#9).toNat + 1 = s.eng.copyLen.toNat := by bv_omega
    have hle := emit_measure (winRead s.eng.copyDist.toNat s.win) hwork.pending
    refine .inr ⟨hs.need, hle.trans_lt ?_⟩
    rw [runMeasure_of_working hs, runMeasure_of_working hwork]
    simp only [State.burden, phaseMeasure, hp]
    omega

/-- The continuation at every phase of an engine that has one. -/
theorem fetchPhase_advances (hphase : s.eng.phase ≠ .pNone) : (fetchPhase s).Advances (runMeasure s) := by
  have hmeasure := runMeasure_of_working hs
  unfold fetchPhase
  split
  case h_1 hp => exact absurd hp hphase
  case h_2 hp => exact fetchZlib_advances hs hp
  case h_3 hp =>
    refine fetchRead_field_advances hs (by decide) (fun r hr => by simp [State.awaitsBit, hp, hs.pending, hr]) ?_
    rintro v i r ⟨⟩ hs' hm
    exact exec_decodeBlock_advances hs' hm _
  case h_4 hp =>
    refine fetchRead_field_advances hs (by decide) (fun r hr => by simp [State.awaitsBit, hp, hs.pending, hr]) ?_
    rintro v i r ⟨⟩ hs' hm
    exact exec_decodeStored_advances hs' hm _ _
  case h_5 hp =>
    split
    · rename_i hrem
      refine blockEnd_advances hs ?_
      simp [hmeasure, phaseMeasure, hp, hrem]
    · rename_i hrem
      refine fetchRead_field_advances hs (by decide)
        (fun r hr => by simp [State.awaitsBit, hp, hs.pending, hr, hrem]) ?_
      rintro v i r ⟨⟩ hs' hm
      exact exec_storedByte_advances hs' hm hp _
  case h_6 hp =>
    refine fetchRead_field_advances hs (by decide) (fun r hr => by simp [State.awaitsBit, hp, hs.pending, hr]) ?_
    rintro v i r ⟨⟩ hs' hm
    exact exec_decodeDyn_advances hs' hm _ _ _
  case h_7 hp =>
    refine fetchRead_field_advances hs (by decide) (fun r hr => by simp [State.awaitsBit, hp, hs.pending, hr]) ?_
    rintro v i r ⟨⟩ hs' hm
    exact exec_cll_advances hs' hm hp _
  case h_8 hp =>
    refine fetchRead_symbol_advances hs (fun r tr htr => by simp [State.awaitsBit, hp, hs.pending, htr]) ?_
    exact fun v i r hi hs' hm => exec_decodeClen_advances hs' hm hi
  case h_9 hp =>
    exact fetchDecoded_advances fun i hi => exec_decodeClen_advances hs (by simp [hmeasure, phaseMeasure, hp]) hi
  case h_10 hp =>
    refine fetchRead_symbol_advances hs (fun r tr htr => by simp [State.awaitsBit, hp, hs.pending, htr]) ?_
    exact fun v i r hi hs' hm => exec_decodeLitlen_advances hs' hm hi
  case h_11 hp =>
    exact fetchDecoded_advances fun i hi => exec_decodeLitlen_advances hs (by simp [hmeasure, phaseMeasure, hp]) hi
  case h_12 hp =>
    refine fetchRead_symbol_advances hs (fun r tr htr => by simp [State.awaitsBit, hp, hs.pending, htr]) ?_
    exact fun v i r hi hs' hm => exec_decodeDist_advances hs' hm hi
  case h_13 hp =>
    exact fetchDecoded_advances fun i hi => exec_decodeDist_advances hs (by simp [hmeasure, phaseMeasure, hp]) hi
  case h_14 hp => exact copyByte_advances hs hp

end

/-- A byte of the row stream is reconstructed, and weighs no more. -/
theorem filterByte_advances {s : State} (hneed : s.eng.needInput = false) (hpending : s.row.pending ≠ none)
    (t : FilterType) (p : Byte → Byte → Byte → Byte) : Advances (runMeasure s) (filterByte t p s) := by
  obtain ⟨v, hv⟩ := Option.ne_none_iff_exists'.mp hpending
  have hdone : ∀ u : State, u.rd = s.rd → u.eng = s.eng → u.row.pending = none → Advances (runMeasure s) u := by
    intro u hrd heng hnone
    refine .inr ⟨heng ▸ hneed, ?_⟩
    simp only [runMeasure, phaseMeasure, hrd, heng, hnone, hv, if_true, reduceCtorEq, if_false]
    omega
  unfold filterByte
  simp only [hv]
  split <;> exact hdone _ rfl rfl rfl

theorem exec_filterInstr_advances {s : State} (hneed : s.eng.needInput = false) (hpending : s.row.pending ≠ none)
    (t : FilterType) : ResultAdvances (runMeasure s) (exec (filterInstr t) s) := by
  cases t <;> exact resultAdvances_next (filterByte_advances hneed hpending _ _)

theorem fetchRow_advances {s : State} (hneed : s.eng.needInput = false) (hpending : s.row.pending ≠ none) (v : Byte) :
    (fetchRow v s).Advances (runMeasure s) := by
  unfold fetchRow
  split
  · refine fetchDecoded_advances fun i hi => ?_
    cases hi
    unfold decodeFilter
    split_ifs
    case neg => exact resultAdvances_next (raise_advances _ _ s)
    all_goals exact resultAdvances_next (filterByte_advances hneed hpending _ _)
  · exact exec_filterInstr_advances hneed hpending _

/-- Every micro-step of a busy engine leads nearer to quiescence (spec/48_host_interface.md R456). -/
theorem engineStep_advances {s t : State} (hbusy : engineIdle s = false) (h : engineStep exec s = .next t) :
    Advances (runMeasure s) t := by
  obtain ⟨hrun, hready⟩ := run_of_busy hbusy
  have hfetch : (fetch s).Advances (runMeasure s) := by
    cases hpending : s.row.pending with
    | none =>
      have hphase : s.eng.phase ≠ .pNone := fun hp => by simp [engineIdle, hp, hpending] at hbusy
      rw [fetch_of_no_row hpending]
      exact fetchPhase_advances (s := { s with eng := { s.eng with needInput := false } })
        ⟨hrun, hready, hpending, rfl⟩ hphase
    | some v =>
      rw [fetch_of_row hpending]
      exact fetchRow_advances (s := { s with eng := { s.eng with needInput := false } }) rfl (by simp [hpending]) v
  obtain ⟨i, u, hi, hex⟩ | hi := engineStep_next_iff.mp h <;> rw [hi] at hfetch
  · exact hfetch t hex
  · exact hfetch

/-! ### The run of the engine -/

/-- With more turns than `runMeasure` a run ends in quiescence, or it began with an idle engine and did nothing. -/
theorem runSteps_quiet {n : Nat} {s t : State} (hn : runMeasure s < n) (h : runSteps exec n s = .next t) :
    t.Quiet ∨ (engineIdle s = true ∧ t = s) := by
  induction n generalizing s with
  | zero => exact absurd hn (Nat.not_lt_zero _)
  | succ n ih =>
    cases hidle : engineIdle s with
    | true =>
      rw [runSteps_idle _ hidle] at h
      cases h
      exact .inr ⟨rfl, rfl⟩
    | false =>
      rw [runSteps_busy _ hidle] at h
      obtain ⟨u, hstep, hrun⟩ := andThen_next_iff.mp h
      obtain hquiet | ⟨hneed, hlt⟩ := engineStep_advances hidle hstep
      · rw [runSteps_idle _ hquiet.idle] at hrun
        cases hrun
        exact .inl hquiet
      · obtain hquiet | ⟨hu, rfl⟩ := ih (by omega) hrun
        · exact .inl hquiet
        · exact .inl ⟨hu, fun h => absurd (hneed.symm.trans h) nofun⟩

theorem runEngine_quiet {s t : State} (h : runEngine exec s = .next t) :
    t.Quiet ∨ (engineIdle s = true ∧ t = s) :=
  runSteps_quiet (Nat.lt_succ_self _) h

/-! ### The host's instructions -/

/-- An engine that waits for a byte is at work again when one has come, or END_OF_INPUT has. -/
theorem busy_of_input {s : State} {r : Reader} (h : s.Quiet) (hneed : s.eng.needInput = true)
    (hinput : r.eoi = true ∨ r.fifo ≠ []) : engineIdle { s with rd := r } = false := by
  obtain ⟨hrun, hready, -, -, hawait⟩ := h.needOk hneed
  have hphase := (continues_of_awaitsBit hawait).1
  obtain hinput | hinput := hinput <;> simp [engineIdle, needsByte, hrun, hready, hphase, hinput]

theorem HostOnly.quiet {s t : State} (h : HostOnly s t) (hs : s.Quiet) : t.Quiet := by
  rw [h.1]
  exact hs.withHost _

theorem start_needInput (s : State) : (start s).eng.needInput = false := by
  unfold start
  split <;> rfl

/-- After an instruction of the host, performed in quiescence, the engine is quiescent or it is busy. -/
theorem exec_host_quiet {i : Instr} {s t : State} (hi : HostInstr i) (h : s.Quiet) (hex : exec i s = .next t)
    (hidle : engineIdle t = true) : t.Quiet := by
  by_cases hneed : t.eng.needInput = true
  case neg => exact ⟨hidle, fun h => absurd h hneed⟩
  case pos =>
    cases hi with
    | abort =>
      cases hex
      cases hneed
    | start =>
      cases hex
      exact absurd ((start_needInput s).symm.trans hneed) nofun
    | rowAck =>
      have hex : execCtrlRowAck s = .next t := hex
      unfold execCtrlRowAck at hex
      split at hex <;> cases hex
      · rename_i hrow
        exact absurd ((h.needOk hneed).2.1.symm.trans hrow.2) nofun
      · exact h.withHost _
    | eoi =>
      have hex : execCtrlEoi s = .next t := hex
      unfold execCtrlEoi at hex
      split at hex <;> cases hex
      · exact absurd ((busy_of_input h hneed (.inl rfl)).symm.trans hidle) nofun
      · exact h.withHost _
    | inData data =>
      have hex : execInDataWrite data s = .next t := hex
      unfold execInDataWrite at hex
      split_ifs at hex <;> cases hex
      · cases hneed
      · exact absurd ((busy_of_input h hneed (.inr (by simp))).symm.trans hidle) nofun
      · exact h.withHost _
    | cfgWidth data | cfgHeight data | cfgBpp data =>
      cases hex
      exact ⟨hidle, h.needOk⟩
    | regRead offset | ignoredWrite w offset data =>
      cases hex
      exact h.withHost _
    | rowRead w offset => exact (execRowRead_hostOnly hex).quiet h
    | busError a => exact (execBusError_hostOnly hex).quiet h

/-- One operation of the host and the run that follows it lead from quiescence to quiescence. -/
theorem hostOperation_quiet {i : Instr} {s t : State} (hi : HostInstr i) (h : s.Quiet)
    (hop : hostOperation exec i s = .next t) : t.Quiet := by
  have hhost : ∀ u, exec i s = .next u → engineIdle u = true → u.Quiet := fun u => exec_host_quiet hi h
  unfold hostOperation at hop
  split at hop
  · exact (execBusError_hostOnly hop).quiet h
  · obtain ⟨u, hex, hrun⟩ := andThen_next_iff.mp hop
    obtain hquiet | ⟨hidle, rfl⟩ := runEngine_quiet hrun
    · exact hquiet
    · exact hhost t hex hidle

theorem hostOperations_quiet {is : List Instr} {s t : State} (hhost : ∀ i ∈ is, HostInstr i) (h : s.Quiet)
    (hops : hostOperations exec is s = .next t) : t.Quiet := by
  induction is generalizing s with
  | nil =>
    cases hops
    exact h
  | cons i is ih =>
    obtain ⟨u, hop, hrest⟩ := andThen_next_iff.mp hops
    obtain ⟨hi, his⟩ := List.forall_mem_cons.mp hhost
    exact ih his (hostOperation_quiet hi h hop) hrest

/-- Settles O56: an access is a list of operations of the host, each followed by a run of the engine. -/
theorem stepKeepsQuiescence : Obligations.StepKeepsQuiescence := by
  intro s t _ h hstep
  cases hqueue : s.host.queue with
  | nil =>
    simp only [step, stepWith, h.idle, hqueue, if_true] at hstep
    cases hstep
    exact h
  | cons a rest =>
    rw [step_access h.idle hqueue, hostAccess] at hstep
    split at hstep
    · exact (undecoded_hostOnly hstep).quiet (h.withHost _)
    · exact hostOperations_quiet (fun _ => decodeAccess_host) (h.withHost _) hstep

end Sys2Proof.Machine
end

section
/-! The window and the rows: `WinWrite` and `WinRead` (spec/20_memory.md R95, R96), and which instructions write the
window, the current row and the prior row (R95, R97; spec/43_lz77.md R301, R371; spec/45_defilter.md R401, R411). -/

namespace Sys2Proof.Machine

/-! ### The window -/

/-- The byte `d` back before a write is the byte `d + 1` back after it. -/
theorem winAddress_succ (wp : BitVec 15) (d : Nat) :
    wp + 1#15 - BitVec.ofNat 15 (d + 1) = wp - BitVec.ofNat 15 d := by
  rw [BitVec.ofNat_add, add_sub_add_right_eq_sub]

/-- A distance below the size of the window leads away from `wp`. -/
theorem winAddress_ne {wp : BitVec 15} {d : Nat} (hpos : 1 ≤ d) (hlt : d < 32768) :
    wp.toNat ≠ (wp - BitVec.ofNat 15 d).toNat := by
  have hwp := wp.isLt
  rw [BitVec.toNat_sub, BitVec.toNat_ofNat]
  omega

/-- Settles O22: by the laws of byte memories at the address `wp`. -/
theorem windowWriteThenRead : Obligations.WindowWriteThenRead := by
  intro v w hw
  refine ⟨?read, Memory.wf_write hw w.wp.isLt, ?wp, rfl, ?last, ?older⟩
  case read =>
    intro a
    split
    · rename_i ha
      rw [ha]
      exact Memory.read_write_same hw
    · rename_i ha
      exact Memory.read_write_other (Ne.symm ha)
  case wp => exact BitVec.toNat_add w.wp 1#15
  case last =>
    have haddr : w.wp + 1#15 - BitVec.ofNat 15 1 = w.wp := add_sub_cancel_right _ _
    rw [winRead, winWrite, haddr]
    exact Memory.read_write_same hw
  case older =>
    intro d hpos hlt
    rw [winRead, winWrite, winAddress_succ]
    exact Memory.read_write_other (winAddress_ne hpos hlt)

/-! ### What the stream's instructions leave in the memories -/

/-- The memories of the block, with the window's pointer and length and the count of the bytes emitted. -/
structure Stores where
  win : Window
  outCount : Word
  cur : Memory
  prior : Memory

def State.stores (s : State) : Stores :=
  { win := s.win, outCount := s.eng.outCount, cur := s.row.cur, prior := s.row.prior }

theorem raise_stores (c : Cause) (s : State) : (raise c s).stores = s.stores := rfl

theorem Stopped.stores {u t : State} (h : Stopped u t) : t.stores = u.stores := by
  obtain ⟨c, rfl⟩ | rfl := h <;> rfl

theorem readField_done_stores {n v : Nat} {s t : State} (h : readField n s = .done v t) : t.stores = s.stores := by
  obtain ⟨-, r, rfl, -⟩ := readFieldLoop_done h
  rfl

theorem readField_stop_stores {n : Nat} {s t : State} (h : readField n s = .stop t) : t.stores = s.stores := by
  obtain ⟨r, ht, -⟩ := readField_stopped h
  exact ht.stores

theorem blockEnd_stores (s : State) : (blockEnd s).stores = s.stores := by
  unfold blockEnd endOfStream
  split_ifs <;> rfl

theorem buildBlockTables_stores (s : State) : (buildBlockTables s).stores = s.stores := by
  unfold buildBlockTables
  dsimp only
  split_ifs <;> rfl

theorem appendLengths_stores (n : Nat) (v : BitVec 4) (s : State) : (appendLengths n v s).stores = s.stores := by
  unfold appendLengths
  dsimp only
  split
  · rfl
  · exact buildBlockTables_stores _

theorem repeatSymbol_stores (sym : BitVec 9) (base extra : Nat) (v : BitVec 4) (s : State) :
    (repeatSymbol sym base extra v s).stores = s.stores := by
  unfold repeatSymbol
  split
  · rename_i hread
    exact (readField_stop_stores hread :)
  · rename_i e t hread
    have ht : t.stores = s.stores := (readField_done_stores hread :)
    unfold repeatLengths
    split
    · exact ht
    · exact (appendLengths_stores _ v t).trans ht

theorem lengthSymbol_stores (sym : BitVec 9) (base extra : Nat) (s : State) :
    (lengthSymbol sym base extra s).stores = s.stores := by
  unfold lengthSymbol
  split
  · rename_i hread
    exact (readField_stop_stores hread :)
  · rename_i hread
    exact (readField_done_stores hread :)

theorem distanceSymbol_stores (sym : BitVec 9) (base extra : Nat) (s : State) :
    (distanceSymbol sym base extra s).stores = s.stores := by
  unfold distanceSymbol
  split
  · rename_i hread
    exact (readField_stop_stores hread :)
  · rename_i e t hread
    have ht : t.stores = s.stores := (readField_done_stores hread :)
    unfold checkDistance
    split <;> exact ht

theorem execCll_stores {length : BitVec 3} {s t : State} (h : execCll length s = .next t) : t.stores = s.stores := by
  unfold execCll at h
  dsimp only at h
  split_ifs at h <;> cases h <;> rfl

theorem execClRepeatPrev_stores {s t : State} (h : execClRepeatPrev s = .next t) : t.stores = s.stores := by
  unfold execClRepeatPrev at h
  split at h <;> cases h
  · rfl
  · exact repeatSymbol_stores _ _ _ _ s

/-- The stream's instructions that neither emit nor filter leave the memories alone, by the operation each calls. -/
theorem exec_stream_stores {i : Instr} {s t : State} (hi : ¬ HostInstr i) (hlit : ∀ v, i ≠ .lit v)
    (hstored : ∀ v, i ≠ .storedByte v) (hfilter : ∀ f, i ≠ filterInstr f) (h : exec i s = .next t) :
    t.stores = s.stores := by
  cases i
  case ctrlAbort => exact absurd .abort hi
  case ctrlStart => exact absurd .start hi
  case ctrlRowAck => exact absurd .rowAck hi
  case ctrlEoi => exact absurd .eoi hi
  case inDataWrite => exact absurd (.inData _) hi
  case cfgWidthWrite => exact absurd (.cfgWidth _) hi
  case cfgHeightWrite => exact absurd (.cfgHeight _) hi
  case cfgBppWrite => exact absurd (.cfgBpp _) hi
  case regRead => exact absurd (.regRead _) hi
  case rowRead => exact absurd (.rowRead _ _) hi
  case ignoredWrite => exact absurd (.ignoredWrite _ _ _) hi
  case busError => exact absurd (.busError _) hi
  case lit v => exact absurd rfl (hlit v)
  case storedByte v => exact absurd rfl (hstored v)
  case filtNone => exact absurd rfl (hfilter .none)
  case filtSub => exact absurd rfl (hfilter .sub)
  case filtUp => exact absurd rfl (hfilter .up)
  case filtAvg => exact absurd rfl (hfilter .avg)
  case filtPaeth => exact absurd rfl (hfilter .paeth)
  case cll => exact execCll_stores h
  case clRepeatPrev => exact execClRepeatPrev_stores h
  case clRepeatZero3 | clRepeatZero11 => cases h; exact repeatSymbol_stores _ _ _ _ s
  case clLen => cases h; exact appendLengths_stores _ _ s
  case eob => cases h; exact blockEnd_stores s
  case zlibHdrBadCm | zlibHdrBadCinfo | zlibHdrBadFcheck | zlibHdrFdict | zlibHdr | blkStored | blkFixed | blkDynamic
      | blkReserved | storedHdr | storedHdrBadNlen | dynHdr | dynHdrBadCounts | litlenRsv286 | litlenRsv287 | distRsv30
      | distRsv31 | filtInvalid =>
    cases h; rfl
  case len257 | len258 | len259 | len260 | len261 | len262 | len263 | len264 | len265 | len266 | len267 | len268
      | len269 | len270 | len271 | len272 | len273 | len274 | len275 | len276 | len277 | len278 | len279 | len280
      | len281 | len282 | len283 | len284 | len285 =>
    cases h; exact lengthSymbol_stores _ _ _ s
  all_goals cases h; exact distanceSymbol_stores _ _ _ s

/-! ### The instructions that emit, and the filters -/

theorem emit_rows (v : Byte) (s : State) : (emit v s).row.cur = s.row.cur ∧ (emit v s).row.prior = s.row.prior := by
  rw [emit_row]
  split <;> exact ⟨rfl, rfl⟩

theorem exec_filterInstr (f : FilterType) (s : State) :
    exec (filterInstr f) s = .next (filterByte f (prediction f) s) := by
  cases f <;> rfl

/-- A filter writes at most one byte, at the position `col - 1` of the current row. -/
theorem filterByte_stores (f : FilterType) (p : Byte → Byte → Byte → Byte) (s : State) :
    (filterByte f p s).stores = s.stores
      ∨ (s.row.col ≠ 0 ∧ ∃ v, (filterByte f p s).stores =
        { s.stores with cur := Memory.write s.row.cur (s.row.col - 1) v }) := by
  unfold filterByte
  split
  · exact .inl rfl
  · split
    · exact .inl rfl
    · rename_i hcol
      exact .inr ⟨hcol, _, rfl⟩

/-! ### The host's instructions -/

theorem start_memories (s : State) :
    (start s).win.win = s.win.win ∧ (start s).row.cur = s.row.cur ∧ (start s).row.prior = s.row.prior := by
  unfold start
  split <;> exact ⟨rfl, rfl, rfl⟩

theorem execCtrlRowAck_stores {s t : State} (h : execCtrlRowAck s = .next t) :
    t.win = s.win ∧ t.eng.outCount = s.eng.outCount ∧ t.row.cur = s.row.cur := by
  unfold execCtrlRowAck at h
  split at h <;> cases h <;> exact ⟨rfl, rfl, rfl⟩

/-- The host's instructions but START, ABORT and ROW_ACK leave the memories alone. -/
theorem exec_host_stores {i : Instr} {s t : State} (hi : HostInstr i) (hstart : i ≠ .ctrlStart)
    (habort : i ≠ .ctrlAbort) (hack : i ≠ .ctrlRowAck) (hex : exec i s = .next t) : t.stores = s.stores := by
  cases hi with
  | abort => exact absurd rfl habort
  | start => exact absurd rfl hstart
  | rowAck => exact absurd rfl hack
  | eoi =>
    have hex : execCtrlEoi s = .next t := hex
    unfold execCtrlEoi at hex
    split at hex <;> cases hex <;> rfl
  | inData data =>
    have hex : execInDataWrite data s = .next t := hex
    unfold execInDataWrite at hex
    split_ifs at hex <;> cases hex <;> rfl
  | rowRead w offset =>
    rw [(execRowRead_hostOnly hex).1]
    rfl
  | busError a =>
    rw [(execBusError_hostOnly hex).1]
    rfl
  | cfgWidth data | cfgHeight data | cfgBpp data | regRead offset | ignoredWrite w offset data =>
    cases hex
    rfl

/-! ### Which instruction writes which memory -/

/-- Only a filter writes the current row, only ROW_ACK the prior row. -/
theorem exec_rows {i : Instr} {s t : State} (hfilter : ∀ f, i ≠ filterInstr f) (hex : exec i s = .next t) :
    t.row.cur = s.row.cur ∧ (i ≠ .ctrlRowAck → t.row.prior = s.row.prior) := by
  by_cases hi : HostInstr i
  · by_cases hstart : i = .ctrlStart
    · subst hstart
      cases hex
      obtain ⟨-, hcur, hprior⟩ := start_memories s
      exact ⟨hcur, fun _ => hprior⟩
    by_cases habort : i = .ctrlAbort
    · subst habort
      cases hex
      exact ⟨rfl, fun _ => rfl⟩
    by_cases hack : i = .ctrlRowAck
    · subst hack
      exact ⟨(execCtrlRowAck_stores hex).2.2, fun hne => absurd rfl hne⟩
    have hstores := exec_host_stores hi hstart habort hack hex
    exact ⟨congrArg Stores.cur hstores, fun _ => congrArg Stores.prior hstores⟩
  · by_cases hlit : ∃ v, i = .lit v
    · obtain ⟨v, rfl⟩ := hlit
      cases hex
      obtain ⟨hcur, hprior⟩ := emit_rows v { s with eng := { s.eng with phase := .pSym } }
      exact ⟨hcur, fun _ => hprior⟩
    by_cases hstored : ∃ v, i = .storedByte v
    · obtain ⟨v, rfl⟩ := hstored
      cases hex
      obtain ⟨hcur, hprior⟩ := emit_rows v { s with eng := { s.eng with lenRem := s.eng.lenRem - 1#16 } }
      exact ⟨hcur, fun _ => hprior⟩
    have hstores := exec_stream_stores hi (not_exists.mp hlit) (not_exists.mp hstored) hfilter hex
    exact ⟨congrArg Stores.cur hstores, fun _ => congrArg Stores.prior hstores⟩

/-- Settles O30: a filter by its one write, any other instruction by leaving the current row alone. -/
theorem rowMemoryFrame : Obligations.RowMemoryFrame := by
  intro i s t hex
  by_cases hfilter : ∃ f, i = filterInstr f
  · obtain ⟨f, rfl⟩ := hfilter
    rw [exec_filterInstr] at hex
    cases hex
    obtain hsame | ⟨hcol, v, hwrite⟩ := filterByte_stores f (prediction f) s
    · have hcur := congrArg Stores.cur hsame
      exact ⟨fun _ => hcur, fun _ => congrArg Stores.prior hsame, fun a _ => congrArg (Memory.read · a) hcur,
        fun _ => hcur⟩
    · have hcur := congrArg Stores.cur hwrite
      refine ⟨fun hne => absurd rfl (hne f), fun _ => congrArg Stores.prior hwrite, fun a ha => ?_,
        fun hzero => absurd hzero hcol⟩
      exact (congrArg (Memory.read · a) hcur).trans (Memory.read_write_other (Ne.symm ha))
  · obtain ⟨hcur, hprior⟩ := exec_rows (not_exists.mp hfilter) hex
    exact ⟨fun _ => hcur, hprior, fun a _ => congrArg (Memory.read · a) hcur, fun _ => hcur⟩

/-- Settles O51: a filter by what it writes, the host's instructions one by one, the others by leaving the memories
alone. -/
theorem windowFrame : Obligations.WindowFrame := by
  intro i s t hex hlit hstored
  have hframe : t.stores.win = s.stores.win → t.stores.outCount = s.stores.outCount →
      t.win.win = s.win.win ∧ (i ≠ .ctrlStart → i ≠ .ctrlAbort → t.win = s.win ∧ t.eng.outCount = s.eng.outCount) :=
    fun hwin hout => ⟨congrArg Window.win hwin, fun _ _ => ⟨hwin, hout⟩⟩
  by_cases hfilter : ∃ f, i = filterInstr f
  · obtain ⟨f, rfl⟩ := hfilter
    rw [exec_filterInstr] at hex
    cases hex
    obtain hsame | ⟨-, v, hwrite⟩ := filterByte_stores f (prediction f) s
    · exact hframe (congrArg Stores.win hsame) (congrArg Stores.outCount hsame)
    · exact hframe (congrArg Stores.win hwrite :) (congrArg Stores.outCount hwrite :)
  by_cases hi : HostInstr i
  · by_cases hstart : i = .ctrlStart
    · subst hstart
      cases hex
      exact ⟨(start_memories s).1, fun hne => absurd rfl hne⟩
    by_cases habort : i = .ctrlAbort
    · subst habort
      cases hex
      exact ⟨rfl, fun _ hne => absurd rfl hne⟩
    by_cases hack : i = .ctrlRowAck
    · subst hack
      obtain ⟨hwin, hout, -⟩ := execCtrlRowAck_stores hex
      exact hframe hwin hout
    have hstores := exec_host_stores hi hstart habort hack hex
    exact hframe (congrArg Stores.win hstores) (congrArg Stores.outCount hstores)
  · have hstores := exec_stream_stores hi hlit hstored (not_exists.mp hfilter) hex
    exact hframe (congrArg Stores.win hstores) (congrArg Stores.outCount hstores)

end Sys2Proof.Machine
end

section
/-! No state with the invariant faults: every number a phase reads has a row (spec/30_encoding.md R139), every
instruction but BUS_ERROR answers a state, and BUS_ERROR is refused only past the ROW window (spec/20_memory.md R85). -/

namespace Sys2Proof.Machine

/-! ### Numbers with a row -/

/-- How many numbers of a format, from 0 on, have a row (spec/30_encoding.md R139). -/
def rowCount : Format → Nat
  | .clenSymbol => 19
  | .litlenSymbol => 288
  | f => 2 ^ f.bits

theorem rowCount_le (f : Format) : rowCount f ≤ 2 ^ f.bits := by
  cases f <;> decide

theorem decodeClen_of_lt {v : Nat} (h : v < 19) : ∃ i, decodeClen v = some i := by
  unfold decodeClen
  split_ifs
  case neg => omega
  all_goals exact ⟨_, rfl⟩

theorem decodeLitlen_of_lt {v : Nat} (h : v < 288) : ∃ i, decodeLitlen v = some i := by
  unfold decodeLitlen
  split_ifs
  · exact ⟨_, rfl⟩
  · exact ⟨_, rfl⟩
  · have hlen : v - 257 < litlenTail.length := by
      simp only [litlenTail, List.length_cons, List.length_nil]
      omega
    exact ⟨_, List.getElem?_eq_getElem hlen⟩

theorem decodeField_of_lt {f : Format} {v : Nat} (h : v < rowCount f) : ∃ i, decodeField f v = .ok i := by
  have hrow : ∃ i, decodeRow f v = some i := by
    cases f
    case clenSymbol => exact decodeClen_of_lt h
    case litlenSymbol => exact decodeLitlen_of_lt h
    case distSymbol => exact ⟨_, List.getElem?_eq_getElem (l := distRows) h⟩
    all_goals exact ⟨_, rfl⟩
  obtain ⟨i, hi⟩ := hrow
  exact ⟨i, by rw [decodeField, if_pos (h.trans_le (rowCount_le f)), hi]⟩

/-! ### Instructions and micro-steps that answer -/

/-- The outcome is a next state. -/
def Answers (o : Result) : Prop := ∃ t, o = .next t

theorem answers_next (s : State) : Answers (.next s) := ⟨s, rfl⟩

/-- Every instruction but BUS_ERROR answers a state. -/
theorem exec_answers {i : Instr} (h : ∀ a, i ≠ .busError a) (s : State) : Answers (exec i s) := by
  cases i with
  | busError a => exact absurd rfl (h a)
  | cll | ctrlRowAck | ctrlEoi | inDataWrite | rowRead =>
    dsimp only [exec, execCll, execCtrlRowAck, execCtrlEoi, execInDataWrite, execRowRead]
    split_ifs <;> exact answers_next _
  | clRepeatPrev =>
    dsimp only [exec, execClRepeatPrev]
    split <;> exact answers_next _
  | _ => exact answers_next _

theorem exec_stream_answers {i : Instr} (h : ¬ HostInstr i) (s : State) : Answers (exec i s) :=
  exec_answers (by rintro a rfl; exact h (.busError a)) s

/-- The fetch leads to a state, and to no number without a row. -/
def Fetch.Answers : Fetch → Prop
  | .instr i u => Machine.Answers (exec i u)
  | .internal _ => True
  | .noRow _ _ => False

theorem fetchDecoded_answers {f : Format} {v : Nat} (h : v < rowCount f) (s : State) :
    (fetchDecoded f v s).Answers := by
  obtain ⟨i, hi⟩ := decodeField_of_lt h
  rw [fetchDecoded_ok hi]
  exact exec_stream_answers (decodeRow_not_host (decodeField_ok hi)) s

/-- A field of a format all of whose numbers have a row. -/
theorem fetchRead_field_answers {f : Format} {n : Nat} {s : State} (hn : s.rd.fieldBits.length ≤ n)
    (hf : 2 ^ n ≤ rowCount f) : (fetchRead f (readField n s)).Answers := by
  cases hread : readField n s with
  | stop t => trivial
  | done v t => exact fetchDecoded_answers ((readField_done_ok hread hn).1.trans_le hf) t

theorem fetchZlib_answers {s : State} (hn : s.rd.fieldBits.length ≤ 16) : (fetchZlib s).Answers := by
  cases hread : readField 16 s with
  | stop t =>
    rw [fetchZlib_stop hread]
    trivial
  | done raw t =>
    have hraw := (readField_done_ok hread hn).1
    have hvalue : zlibValue raw < 65536 := by
      unfold zlibValue
      omega
    rw [fetchZlib_done hread]
    exact fetchDecoded_answers hvalue t

/-- A sound table decodes to symbols with a row only. -/
theorem fetchRead_symbol_answers {f : Format} {tbl : HuffTable} {s : State} (hs : tbl.sound (rowCount f) = true)
    (hw : s.trav.within tbl = true) : (fetchRead f (decodeSymbol tbl s)).Answers := by
  cases hread : decodeSymbol tbl s with
  | stop t => trivial
  | done v t => exact fetchDecoded_answers ((decodeLoop_done hread).1 _ hs hw) t

/-- At a symbol's extra bits the symbol in `sym` has a row. -/
theorem State.PhaseOk.extra_lt {s : State} {p : Phase} {f : Format} (h : s.PhaseOk) (hmem : (p, f) ∈ extraPhases)
    (hp : s.eng.phase = p) : s.eng.sym.toNat < rowCount f := by
  have hc := h.cont
  simp only [extraPhases, List.mem_cons, List.not_mem_nil, or_false, Prod.mk.injEq] at hmem
  obtain ⟨rfl, rfl⟩ | ⟨rfl, rfl⟩ | ⟨rfl, rfl⟩ := hmem
  all_goals
    simp only [State.continuationOk, hp, Bool.and_eq_true, decide_eq_true_eq] at hc
    simp only [rowCount, Format.bits]
    omega

/-- The continuation at every phase: the widths of the fields, the soundness of the tables and the range of `sym` leave
no number without a row. -/
theorem fetchPhase_answers {s : State} (h : s.PhaseOk) : (fetchPhase s).Answers := by
  have hfield := h.field
  unfold State.fieldLimit at hfield
  unfold fetchPhase
  split <;> rename_i hp <;> simp only [hp] at hfield
  case h_1 | h_14 => trivial
  case h_2 => exact fetchZlib_answers hfield
  case h_5 =>
    split
    · trivial
    · rename_i hrem
      exact fetchRead_field_answers (by simpa [hrem] using hfield) (Nat.le_refl _)
  case h_8 =>
    exact fetchRead_symbol_answers (h.cltSound (.inl hp))
      (h.coded (f := .clenSymbol) (by simp [State.codedPhases]) hp).1
  case h_10 =>
    exact fetchRead_symbol_answers (h.blockSound (by simp [blockPhases, hp])).1
      (h.coded (f := .litlenSymbol) (by simp [State.codedPhases]) hp).1
  case h_12 =>
    exact fetchRead_symbol_answers (h.blockSound (by simp [blockPhases, hp])).2
      (h.coded (f := .distSymbol) (by simp [State.codedPhases]) hp).1
  case h_9 | h_11 | h_13 => exact fetchDecoded_answers (h.extra_lt (by simp [extraPhases]) hp) s
  all_goals exact fetchRead_field_answers hfield (Nat.le_refl _)

theorem fetchRow_answers (v : Byte) (s : State) : (fetchRow v s).Answers := by
  unfold fetchRow
  split
  · exact fetchDecoded_answers v.isLt s
  · exact exec_stream_answers (filterInstr_not_host _) s

theorem engineStep_answers {s : State} (h : s.Inv) (hbusy : engineIdle s = false) : Answers (engineStep exec s) := by
  have hphase := (h.phaseOk (run_of_busy hbusy).1).withNeedInput false
  have hfetch : (fetch s).Answers := by
    cases hpending : s.row.pending with
    | none =>
      rw [fetch_of_no_row hpending]
      exact fetchPhase_answers hphase
    | some v =>
      rw [fetch_of_row hpending]
      exact fetchRow_answers v _
  unfold engineStep
  cases hf : fetch s with
  | instr i u =>
    rw [hf] at hfetch
    exact hfetch
  | internal t => exact answers_next t
  | noRow f v =>
    rw [hf] at hfetch
    exact hfetch.elim

/-! ### The run of the engine and the host's operations -/

theorem runSteps_answers {s : State} (n : Nat) (h : s.Inv) : Answers (runSteps exec n s) := by
  induction n generalizing s with
  | zero => exact answers_next s
  | succ n ih =>
    cases hidle : engineIdle s with
    | true =>
      rw [runSteps_idle _ hidle]
      exact answers_next s
    | false =>
      obtain ⟨u, hu⟩ := engineStep_answers h hidle
      rw [runSteps_busy _ hidle, hu, andThen_next]
      exact ih (engineStep_inv h hidle hu)

/-- A host's operation other than BUS_ERROR, with the run that follows it, leads to a state with the invariant. -/
theorem hostOperation_answers {i : Instr} {s : State} (hi : HostInstr i) (hne : ∀ b, i ≠ .busError b) (h : s.Inv) :
    ∃ t, hostOperation exec i s = .next t ∧ t.Inv := by
  obtain ⟨u, hex⟩ := exec_answers hne s
  have hu := exec_host_inv hi h hex
  obtain ⟨t, hrun⟩ := runSteps_answers (runMeasure u + 1) hu
  refine ⟨t, ?_, runSteps_induct (P := State.Inv) (fun _ _ => engineStep_inv) hu hrun⟩
  rw [hostOperation_of_ne hne, hex, andThen_next]
  exact hrun

theorem hostOperations_answers {is : List Instr} {s : State} (his : ∀ i ∈ is, HostInstr i ∧ ∀ b, i ≠ .busError b)
    (h : s.Inv) : Answers (hostOperations exec is s) := by
  induction is generalizing s with
  | nil => exact answers_next s
  | cons i is ih =>
    obtain ⟨⟨hi, hne⟩, his⟩ := List.forall_mem_cons.mp his
    obtain ⟨t, hop, ht⟩ := hostOperation_answers hi hne h
    rw [hostOperations, hop, andThen_next]
    exact ih his ht

/-! ### Accesses the block does not decode -/

theorem busError_not_mem_decodeCtrl (data : Word) (b : HostAccess) : .busError b ∉ decodeCtrl data := by
  intro h
  obtain hc | hc | hc := decodeCtrl_cases data
  · simp [hc] at h
  · simp [hc] at h
  · obtain h | h | h := hc _ h <;> cases h

/-- BUS_ERROR stands alone, for a misaccess or an access the block does not decode (spec/30_encoding.md R136). -/
theorem decodeAccess_of_busError {w : Nat} {a b : HostAccess} (h : .busError b ∈ decodeAccess w a) :
    decodeAccess w a = [.busError a] ∧ (a.misaccess = true ∨ a.decoded w = false) := by
  by_cases hc : (a.misaccess || !a.decoded w) = true
  · exact ⟨if_pos hc, by simpa using hc⟩
  · exfalso
    rw [decodeAccess, if_neg hc] at h
    split at h
    · split at h <;> simp at h
    · rename_i data _
      split_ifs at h
      · exact busError_not_mem_decodeCtrl data b h
      all_goals simp at h

/-- An aligned access the block does not decode begins past the ROW window, whose size is a multiple of every width. -/
theorem past_window_of_undecoded {c : Config} {a : HostAccess} (hmis : a.misaccess = false)
    (hdec : a.decoded c.rowWinSize = false) : 0x1000 + c.rowWinSize ≤ a.offset := by
  have halign : a.offset % a.width.bytes = 0 := by
    by_contra hne
    exact absurd ((misaccess_iff a).mpr (.inr hne)) (by simp [hmis])
  have hend : 0x1000 + c.rowWinSize < a.offset + a.width.bytes := by simpa [HostAccess.decoded] using hdec
  unfold Config.rowWinSize at hend ⊢
  cases hw : a.width <;> simp only [hw, AccessWidth.bytes] at halign hend <;> omega

theorem undecoded_cases (s : State) :
    Answers (undecoded s) ∨ undecoded s = .refused .platformAccess ∧ s.cfg.undecodedBusError = false := by
  unfold undecoded
  split
  · exact .inl (answers_next _)
  · rename_i hplatform
    exact .inr ⟨rfl, by simpa using hplatform⟩

/-! ### The step -/

/-- The host's next access is one the block does not decode, on a platform without a bus error for it. -/
def State.PlatformAccess (s : State) : Prop :=
  s.cfg.undecodedBusError = false ∧ ∃ a rest, s.host.queue = a :: rest
    ∧ (a.addr < s.cfg.baseAddr ∨ s.cfg.baseAddr + 0x1000 + s.cfg.rowWinSize ≤ a.addr)

/-- An access at or above `BASE_ADDR`. -/
theorem step_access_answers {s : State} {a : BusAccess} {rest : List BusAccess} (h : s.Inv)
    (hidle : engineIdle s = true) (hq : s.host.queue = a :: rest) (hbase : s.cfg.baseAddr ≤ a.addr) :
    Answers (step s) ∨ step s = .refused .platformAccess ∧ s.PlatformAccess := by
  by_cases hbus : ∃ b, Instr.busError b ∈ s.accessInstrs a
  · obtain ⟨b, hb⟩ := hbus
    obtain ⟨hone, hwhy⟩ := decodeAccess_of_busError hb
    rw [step_operation hidle hq hbase hone]
    show Answers (execBusError _ s.popAccess) ∨ execBusError _ s.popAccess = _ ∧ _
    cases hmis : HostAccess.misaccess ⟨a.op, a.width, a.addr - s.cfg.baseAddr⟩ with
    | true =>
      rw [execBusError_misaccess hmis]
      exact .inl (answers_next _)
    | false =>
      have hpast := past_window_of_undecoded hmis (hwhy.resolve_left (by simp [hmis]))
      dsimp only at hpast
      rw [execBusError_undecoded hmis]
      exact (undecoded_cases s.popAccess).imp_right fun hr => ⟨hr.1, hr.2, a, rest, hq, .inr (by omega)⟩
  · left
    rw [step_access hidle hq, hostAccess, if_neg (Nat.not_lt_of_le hbase)]
    exact hostOperations_answers
      (fun i hi => ⟨decodeAccess_host hi, fun b hb => hbus ⟨b, hb ▸ hi⟩⟩) (h.withHost _)

/-- A step answers a state, or the platform's access is refused. -/
theorem step_answers {s : State} (h : s.Inv) :
    Answers (step s) ∨ step s = .refused .platformAccess ∧ s.PlatformAccess := by
  cases hidle : engineIdle s with
  | false =>
    rw [step_busy hidle]
    exact .inl (engineStep_answers h hidle)
  | true =>
    cases hq : s.host.queue with
    | nil => exact .inl ⟨s, (stepRunsHostAccess s hidle).1 hq⟩
    | cons a rest =>
      by_cases hlow : a.addr < s.cfg.baseAddr
      · rw [step_below_base hidle hq hlow]
        exact (undecoded_cases _).imp_right fun hr => ⟨hr.1, hr.2, a, rest, hq, .inl hlow⟩
      · exact step_access_answers h hidle hq (Nat.le_of_not_lt hlow)

/-- Settles O58: with the invariant a step answers a state, or it is the platform's access that is refused. -/
theorem stepNeverFaults : Obligations.StepNeverFaults := by
  intro s h
  obtain ⟨t, ht⟩ | ⟨hrefused, hplatform⟩ := step_answers h
  · simp [ht]
  · exact ⟨by simp [hrefused], fun _ _ => hplatform⟩

end Sys2Proof.Machine
end

section
/-! The length symbols over the unread bits (spec/43_lz77.md R300, spec/30_encoding.md R128). -/

namespace Sys2Proof.Machine

/-- Settles O23: a length symbol reads its extra bits as any field, which completes or stops as the bits at hand
suffice or not. -/
theorem lengthSymbolResults : Obligations.LengthSymbolResults := by
  intro i sym base extra s hmem hle k pend
  have hexec : exec i s = .next (lengthSymbol (BitVec.ofNat 9 sym) base extra s) := exec_lengthRow _ hmem s
  refine ⟨fun hk => ?done, fun hlt => ?stop⟩
  case done =>
    obtain ⟨r, htake, hrest, hread⟩ := readField_done hk
    exact ⟨r, htake, hrest, by rw [hexec, lengthSymbol, hread]⟩
  case stop =>
    obtain ⟨r, htake, hread⟩ := readField_stop (n := extra) (Nat.add_lt_of_lt_sub' hlt)
    obtain ⟨t, hstop, hends⟩ := hread { s.eng with phase := .pLenExtra, sym := BitVec.ofNat 9 sym }
    exact ⟨r, htake, by rw [hexec, lengthSymbol, hstop]; exact hends.symm⟩

end Sys2Proof.Machine
end

section
/-! The Bit Reader bit by bit and field by field (spec/40_bit_reader.md R201 to R204). -/

namespace Sys2Proof.Machine

/-- Settles O4: bits at hand, a byte at hand, or neither, before END_OF_INPUT or after it. -/
theorem readBitTakesNextBit : Obligations.ReadBitTakesNextBit := by
  intro s
  refine ⟨fun hn hf heoi => ?truncated, fun hn hf heoi => ?suspended, fun b rest hn hf => ?byte, fun hn => ?bit⟩
  case truncated => simp [readBit, hn, hf, heoi]
  case suspended => simp [readBit, hn, hf, heoi]
  case byte => simp [readBit, hn, hf, Reader.takeByte]
  case bit => simp [readBit, hn]

/-- `k` bits read one after another leave a field's bits and END_OF_INPUT alone and move the input bit position on by
`k`. -/
theorem takeBits_keeps {k : Nat} {s t : State} {bs : List Bool} (h : takeBits k s = some (bs, t)) :
    t.rd.fieldBits = s.rd.fieldBits ∧ t.rd.eoi = s.rd.eoi
      ∧ (s.rd.nbits ≤ 8 * s.rd.bytesTaken → t.rd.bitPosition = s.rd.bitPosition + k) := by
  induction k generalizing s bs with
  | zero =>
    obtain ⟨-, rfl⟩ := Prod.mk.inj (Option.some.inj h)
    exact ⟨rfl, rfl, fun _ => rfl⟩
  | succ k ih =>
    simp only [takeBits] at h
    split at h
    · cases h
    · rename_i b u hread
      obtain ⟨⟨cs, v⟩, htake, hpair⟩ := Option.map_eq_some_iff.mp h
      obtain ⟨-, rfl⟩ := Prod.mk.inj hpair
      obtain ⟨-, -, hfield, heoi⟩ := readBit_done hread
      obtain ⟨hfield', heoi', hpos'⟩ := ih htake
      refine ⟨hfield'.trans hfield, heoi'.trans heoi, fun hn => ?_⟩
      obtain ⟨hpos, hn', -⟩ := readBit_bitPosition hread hn
      rw [hpos' hn', hpos, Nat.add_right_comm, Nat.add_assoc]

/-- Settles O5: a field whose bits are at hand is read whole, and each of its bits moves the position by one; the
alignment drops the bits of the byte held. -/
theorem readBitsTakesNextBits : Obligations.ReadBitsTakesNextBits := by
  refine ⟨?field, fun s => ?align⟩
  case field =>
    intro n s k pend _ hk
    obtain ⟨r, htake, hrest, hread⟩ := readField_done hk
    exact ⟨r, htake, hread s.eng, hrest, takeBits_keeps htake⟩
  case align =>
    exact ⟨rfl, rfl, rfl, Nat.mul_mod_right 8 _, fun hn => (alignToByte_bitPosition s hn).1⟩

end Sys2Proof.Machine
end

section
/-! The zlib header, stored blocks and the end of a block (spec/41_zlib_blocks.md R221 to R236). -/

namespace Sys2Proof.Machine

/-! ### The zlib header -/

theorem zlibFdict_iff (flg : Byte) : zlibFdict flg = true ↔ flg.toNat / 32 % 2 = 1 := by
  rw [zlibFdict, BitVec.getLsbD, Nat.testBit_eq_decide_div_mod_eq, decide_eq_true_iff]

/-- Every two bytes decode to a row of the zlib header (spec/30_encoding.md R122). -/
theorem decodeField_zlibHeader (cmf flg : Byte) :
    decodeField .zlibHeader (cmf.toNat * 256 + flg.toNat) = .ok (decodeZlib cmf flg) := by
  have hcmf : BitVec.ofNat 8 ((cmf.toNat * 256 + flg.toNat) / 256) = cmf := by bv_omega
  have hflg : BitVec.ofNat 8 (cmf.toNat * 256 + flg.toNat) = flg := by bv_omega
  have hfits : cmf.toNat * 256 + flg.toNat < 2 ^ Format.zlibHeader.bits :=
    Laws.EncodingFits.zlibHdr cmf flg
  rw [decodeField, if_pos hfits, decodeRow, hcmf, hflg]

/-- The effect of a decoded zlib header, check by check in the order of R226. -/
theorem exec_decodeZlib (cmf flg : Byte) (s : State) :
    exec (decodeZlib cmf flg) s = .next
      (if zlibCm cmf ≠ 8 then raise .zlibCm s
       else if 7 < zlibCinfo cmf then raise .zlibCinfo s
       else if zlibCheck cmf flg ≠ 0 then raise .zlibFcheck s
       else if zlibFdict flg then raise .zlibFdict s
       else afterZlibHeader s) := by
  unfold decodeZlib
  split_ifs <;> rfl

/-- Settles O9: two bytes decode to the row of their first failing check, whose meaning raises that check's cause. -/
theorem zlibChecksInOrder : Obligations.ZlibChecksInOrder := by
  intro cmf flg s
  refine ⟨decodeZlib cmf flg, decodeField_zlibHeader cmf flg, ?_⟩
  rw [exec_decodeZlib]
  simp only [zlibFdict_iff]
  rfl

/-! ### Stored blocks -/

/-- Settles O11: the header's two rows by their meanings, a payload byte by `emit`. -/
theorem storedBlockResults : Obligations.StoredBlockResults := by
  intro len nlen v s
  refine ⟨?header, ?badNlen, ?payload⟩
  case header => rfl
  case badNlen => rfl
  case payload =>
    have hexec : exec (.storedByte v) s
        = .next (emit v { s with eng := { s.eng with lenRem := s.eng.lenRem - 1#16 } }) := rfl
    rw [hexec, emit, winWrite]

/-! ### The end of a block -/

theorem blockEnd_of_not_final {s : State} (h : s.eng.bfinal = false) :
    blockEnd s = { s with eng := { s.eng with phase := .pBhdr } } := by
  simp [blockEnd, h]

theorem blockEnd_of_final {s : State} (h : s.eng.bfinal = true) : blockEnd s = endOfStream s := by
  simp [blockEnd, h]

/-- The stream ends before the image does. -/
theorem endOfStream_of_lt {s : State} (h : s.row.rowsDone.toNat < s.ses.height.toNat) :
    endOfStream s = raise .imageDataShort s :=
  if_pos (BitVec.lt_def.mpr h)

/-- The stream ends with every row of the image done. -/
theorem endOfStream_of_le {s : State} (h : s.ses.height.toNat ≤ s.row.rowsDone.toNat) :
    endOfStream s =
      { s with
        ses := { s.ses with state := .done }
        rd := { s.rd with curByte := 0#8, nbits := 0, fifo := [] }
        eng := { s.eng with phase := .pNone, needInput := false } } :=
  if_neg fun hlt => Nat.not_lt.mpr h (BitVec.lt_def.mp hlt)

/-- With no payload byte left, the fetch ends the block without reading an element. -/
theorem fetch_stored_end {s : State} (hrow : s.row.pending = none) (hp : s.eng.phase = .pStoredCopy)
    (hrem : s.eng.lenRem = 0#16) :
    fetch s = .internal (blockEnd { s with eng := { s.eng with needInput := false } }) := by
  simp [fetch_of_no_row hrow, fetchPhase, hp, hrem]

/-- Settles O12: EOB by its meaning, the end of a stored payload by its fetch, and the three ends of a block by BFINAL
and the rows done. -/
theorem blockEndResults : Obligations.BlockEndResults := by
  intro s
  refine ⟨?eob, ?stored, ?next, ?short, ?done⟩
  case eob => rfl
  case stored =>
    intro hrow hp hrem hbusy
    exact step_internal hbusy (fetch_stored_end hrow hp hrem)
  case next => exact blockEnd_of_not_final
  case short => exact fun hfinal hlt => (blockEnd_of_final hfinal).trans (endOfStream_of_lt hlt)
  case done => exact fun hfinal hle => (blockEnd_of_final hfinal).trans (endOfStream_of_le hle)

end Sys2Proof.Machine
end

section
/-! How much of the code space a list of code lengths uses, and the status of the table built from it
(spec/42_huffman.md R260, R261). -/

namespace Sys2Proof.Machine

/-! ### The code space -/

/-- The code space used by codes of which there are `counts[i]` of length i + 1, in units of one code of the longest
length listed. -/
def codeSpace (counts : List Nat) : Nat := Nat.ofDigits 2 counts.reverse

theorem codeSpace_cons (c : Nat) (cs : List Nat) : codeSpace (c :: cs) = codeSpace cs + 2 ^ cs.length * c := by
  simp [codeSpace, Nat.ofDigits_append]

/-- One length more doubles what the shorter codes take up. -/
theorem codeSpace_concat (cs : List Nat) (c : Nat) : codeSpace (cs ++ [c]) = c + 2 * codeSpace cs := by
  simp [codeSpace, Nat.ofDigits_cons]

/-- `left` of R260 goes below zero at some length exactly if the whole list uses more than there is. -/
theorem codeSpaceLeft_eq (counts : List Nat) (left : Nat) :
    codeSpaceLeft counts left =
      if left * 2 ^ counts.length < codeSpace counts then none
      else some (left * 2 ^ counts.length - codeSpace counts) := by
  induction counts generalizing left with
  | nil => simp [codeSpaceLeft, codeSpace]
  | cons c cs ih =>
    have hscale : left * 2 ^ (c :: cs).length = 2 ^ cs.length * (2 * left) := by
      rw [List.length_cons, Nat.pow_succ]
      ring
    rw [codeSpaceLeft, codeSpace_cons, hscale]
    split
    · rename_i hover
      have hmul := Nat.mul_lt_mul_of_pos_left hover (Nat.two_pow_pos cs.length)
      rw [if_pos (by omega)]
    · rename_i hfits
      have hmul := Nat.mul_le_mul_left (2 ^ cs.length) (Nat.not_lt.mp hfits)
      have hrest : (2 * left - c) * 2 ^ cs.length = 2 ^ cs.length * (2 * left) - 2 ^ cs.length * c := by
        rw [Nat.mul_comm, Nat.mul_sub]
      rw [ih, hrest]
      simp only [Nat.sub_lt_iff_lt_add hmul, Nat.sub_sub, Nat.add_comm]

theorem codeSpaceUsed_eq_sum {lens : List Nat} (h : ∀ l ∈ lens, l ≤ 15) :
    codeSpaceUsed lens = ∑ l ∈ Finset.range 16, lens.count l * if l = 0 then 0 else 2 ^ (15 - l) := by
  rw [codeSpaceUsed, Finset.sum_list_map_count]
  refine Finset.sum_subset (fun l hl => ?_) (fun l _ hl => ?_)
  · exact Finset.mem_range.mpr (Nat.lt_succ_of_le (h l (List.mem_toFinset.mp hl)))
  · rw [List.count_eq_zero.mpr fun hmem => hl (List.mem_toFinset.mpr hmem), zero_smul]

theorem codeSpace_map_range' (f : Nat → Nat) (n : Nat) :
    codeSpace ((List.range' 1 n).map f) = ∑ i ∈ Finset.range n, f (i + 1) * 2 ^ (n - 1 - i) := by
  induction n with
  | zero => rfl
  | succ n ih =>
    have hdouble : ∀ i ∈ Finset.range n, f (i + 1) * 2 ^ (n - i) = 2 * (f (i + 1) * 2 ^ (n - 1 - i)) := fun i hi => by
      have hlt := Finset.mem_range.mp hi
      rw [show n - i = n - 1 - i + 1 by omega, Nat.pow_succ]
      ring
    rw [List.range'_1_concat, List.map_append, List.map_singleton, codeSpace_concat, ih, Finset.sum_range_succ,
      Nat.add_sub_cancel, Finset.sum_congr rfl hdouble, ← Finset.mul_sum, Nat.sub_self, Nat.pow_zero, Nat.mul_one,
      Nat.add_comm 1 n, Nat.add_comm]

/-- The code space of the counts is that of the lengths they count. -/
theorem codeSpace_lengthCounts {lens : List Nat} (h : ∀ l ∈ lens, l ≤ 15) :
    codeSpace (lengthCounts lens).tail = codeSpaceUsed lens := by
  rw [codeSpaceUsed_eq_sum h, Finset.sum_range_succ', if_pos rfl, Nat.mul_zero, Nat.add_zero, lengthCounts,
    List.tail_cons, codeSpace_map_range']
  refine Finset.sum_congr rfl fun i _ => ?_
  rw [if_neg (Nat.succ_ne_zero i), Nat.sub_sub, Nat.add_comm 1 i]

theorem codeSpaceUsed_of_zero {lens : List Nat} (h : ∀ l ∈ lens, l = 0) : codeSpaceUsed lens = 0 := by
  simp only [codeSpaceUsed, List.sum_eq_zero_iff, List.forall_mem_map]
  exact fun l hl => if_pos (h l hl)

/-- With codes of length 1 only, each takes up half the code space. -/
theorem codeSpaceUsed_of_le_one {lens : List Nat} (h : ∀ l ∈ lens, l ≤ 1) :
    codeSpaceUsed lens = lens.count 1 * 2 ^ 14 := by
  rw [codeSpaceUsed_eq_sum fun l hl => (h l hl).trans (by decide), Finset.sum_eq_single 1]
  · rfl
  · intro l _ hne
    obtain rfl | hlt : l = 0 ∨ 1 < l := by omega
    · exact Nat.mul_zero _
    · rw [List.count_eq_zero.mpr fun hmem => Nat.not_lt.mpr (h l hmem) hlt, Nat.zero_mul]
  · intro hmem
    simp at hmem

/-! ### The counts -/

theorem lengthCounts_length (lens : List Nat) : (lengthCounts lens).length = 16 := by simp [lengthCounts]

theorem lengthCounts_getD {lens : List Nat} {l : Nat} (hpos : 1 ≤ l) (hle : l ≤ 15) :
    (lengthCounts lens).getD l 0 = lens.count l := by
  obtain ⟨k, rfl⟩ := Nat.exists_eq_add_of_le' hpos
  simp [lengthCounts, Nat.lt_of_succ_le hle, Nat.add_comm]

/-- The only code has length 1 (SINGLE1, spec/42_huffman.md R261). -/
def SingleOne (lens : List Nat) : Prop := lens.count 1 = 1 ∧ ∀ l ∈ lens, l ≤ 1

theorem classify_cond_iff {lens : List Nat} (h : ∀ l ∈ lens, l ≤ 15) :
    (lengthCounts lens).getD 1 0 = 1 ∧ ((lengthCounts lens).drop 2).all (fun c => c == 0) ↔ SingleOne lens := by
  rw [lengthCounts_getD (Nat.le_refl 1) (by decide), SingleOne]
  refine and_congr_right fun _ => ?_
  have hdrop : (lengthCounts lens).drop 2 = (List.range' 2 14).map fun l => lens.count l := rfl
  simp only [hdrop, List.all_map, List.all_eq_true, List.mem_range'_1, Function.comp_apply, beq_iff_eq,
    List.count_eq_zero]
  constructor
  · intro hnone l hl
    by_contra hlt
    exact hnone l ⟨by omega, by have := h l hl; omega⟩ hl
  · intro hle l hrange hl
    have := hle l hl
    omega

theorem SingleOne.codeSpaceUsed_eq {lens : List Nat} (h : SingleOne lens) : codeSpaceUsed lens = 2 ^ 14 := by
  rw [codeSpaceUsed_of_le_one h.2, h.1, Nat.one_mul]

/-! ### The table -/

theorem lengthCounts_of_zero {lens : List Nat} (h : ∀ l ∈ lens, l = 0) : lengthCounts lens = List.replicate 16 0 := by
  have hcount : ∀ l ∈ List.range' 1 15, lens.count l = 0 := fun l hl =>
    List.count_eq_zero.mpr fun hmem => by
      have := (List.mem_range'_1.mp hl).1
      have := h l hmem
      omega
  rw [lengthCounts, List.map_congr_left hcount]
  rfl

theorem build_of_zero {lens : List Nat} (h : ∀ l ∈ lens, l = 0) :
    build lens = { count := lengthCounts lens, symbol := [], status := .empty } := by
  rw [build, if_pos (by simpa using h), lengthCounts_of_zero h]

/-- `Build` of R260 for lengths not all 0: OVERSUB if they use too much code space, else classified by the rest. -/
theorem build_of_ne_zero {lens : List Nat} (hne : ¬ ∀ l ∈ lens, l = 0) :
    build lens =
      if 2 ^ 15 < codeSpace (lengthCounts lens).tail then
        { count := lengthCounts lens, symbol := [], status := .oversub }
      else
        { count := lengthCounts lens, symbol := canonicalSymbols lens
          status := classify (lengthCounts lens) (2 ^ 15 - codeSpace (lengthCounts lens).tail) } := by
  have hlen : (lengthCounts lens).tail.length = 15 := by rw [List.length_tail, lengthCounts_length]
  rw [build, if_neg (by simpa using hne)]
  by_cases hover : 2 ^ 15 < codeSpace (lengthCounts lens).tail <;>
    simp only [codeSpaceLeft_eq, hlen, Nat.one_mul, hover, if_true, if_false]

theorem build_count (lens : List Nat) : (build lens).count = lengthCounts lens := by
  by_cases hzero : ∀ l ∈ lens, l = 0
  · rw [build_of_zero hzero]
  · rw [build_of_ne_zero hzero]
    split <;> rfl

theorem build_symbol {lens : List Nat} (hne : ¬ ∀ l ∈ lens, l = 0) (h : (build lens).status ≠ .oversub) :
    (build lens).symbol = canonicalSymbols lens := by
  rw [build_of_ne_zero hne] at h ⊢
  split at h
  · exact absurd rfl h
  · rename_i hfits
    rw [if_neg hfits]

/-- The status of a built table, case by case (spec/42_huffman.md R261). -/
theorem build_status {lens : List Nat} (h : ∀ l ∈ lens, l ≤ 15) :
    ((build lens).status = .empty ∧ ∀ l ∈ lens, l = 0)
      ∨ ((build lens).status = .oversub ∧ 2 ^ 15 < codeSpaceUsed lens)
      ∨ ((build lens).status = .complete ∧ codeSpaceUsed lens = 2 ^ 15)
      ∨ ((build lens).status = .single1 ∧ SingleOne lens)
      ∨ ((build lens).status = .incomplete ∧ codeSpaceUsed lens < 2 ^ 15 ∧ (¬ ∀ l ∈ lens, l = 0)
        ∧ ¬ SingleOne lens) := by
  by_cases hzero : ∀ l ∈ lens, l = 0
  · exact .inl ⟨by rw [build_of_zero hzero], hzero⟩
  rw [build_of_ne_zero hzero, codeSpace_lengthCounts h]
  split
  · exact .inr (.inl ⟨rfl, ‹_›⟩)
  rename_i hfits
  dsimp only [classify]
  split
  · exact .inr (.inr (.inl ⟨rfl, by omega⟩))
  split
  · exact .inr (.inr (.inr (.inl ⟨rfl, (classify_cond_iff h).mp ‹_›⟩)))
  · exact .inr (.inr (.inr (.inr ⟨rfl, by omega, hzero, fun hone => ‹¬ _› ((classify_cond_iff h).mpr hone)⟩)))

/-- Settles O13: exactly one of the five descriptions holds of a list of code lengths, and the table has its status. -/
theorem tableStatusByCodeSpace : Obligations.TableStatusByCodeSpace := by
  intro lens h
  have hzero := codeSpaceUsed_of_zero (lens := lens)
  have hsingle := SingleOne.codeSpaceUsed_eq (lens := lens)
  have hcoded : (∃ l ∈ lens, l ≠ 0) ↔ ¬ ∀ l ∈ lens, l = 0 := by push Not; rfl
  rw [hcoded, ← SingleOne]
  obtain ⟨hs, hz⟩ | ⟨hs, hover⟩ | ⟨hs, hfull⟩ | ⟨hs, hone⟩ | ⟨hs, hrest⟩ := build_status h <;>
    rw [hs] <;> generalize (∀ l ∈ lens, l = 0) = zero at * <;> grind

end Sys2Proof.Machine
end

section
/-! `Decode` over the unread bits: it answers with the first code they begin with, and the canonical code of a symbol is
one (spec/42_huffman.md R260, R268, R269). -/

namespace Sys2Proof.Machine

/-! ### A code as a number -/

/-- The number a code stands for, its first bit the most significant one (spec/20_memory.md R81). -/
def codeValue (bits : List Bool) : Nat := bitsToNat bits.reverse

theorem codeValue_append (a b : List Bool) : codeValue (a ++ b) = codeValue b + 2 ^ b.length * codeValue a := by
  rw [codeValue, List.reverse_append, bitsToNat_append, List.length_reverse, codeValue, codeValue]

theorem codeValue_concat (a : List Bool) (b : Bool) : codeValue (a ++ [b]) = b.toNat + 2 * codeValue a := by
  simp [codeValue, bitsToNat]

theorem codeValue_lt (bits : List Bool) : codeValue bits < 2 ^ bits.length := by
  rw [← List.length_reverse]
  exact bitsToNat_lt _

theorem bitsToNat_natBits (n v : Nat) : bitsToNat (natBits n v) = v % 2 ^ n := by
  induction n generalizing v with
  | zero => simp [natBits, bitsToNat, Nat.mod_one]
  | succ n ih =>
    have hbit : (v % 2 == 1).toNat = v % 2 := by
      obtain h | h := Nat.mod_two_eq_zero_or_one v <;> simp [h]
    rw [natBits_succ, bitsToNat, ih, hbit, Nat.pow_succ, Nat.mul_comm (2 ^ n), Nat.mod_mul]

theorem msbBits_length (n v : Nat) : (msbBits n v).length = n := by rw [msbBits, List.length_reverse, natBits_length]

theorem codeValue_msbBits {n v : Nat} (h : v < 2 ^ n) : codeValue (msbBits n v) = v := by
  rw [codeValue, msbBits, List.reverse_reverse, bitsToNat_natBits, Nat.mod_eq_of_lt h]

/-! ### The codes of each length -/

/-- One past the last code of length `l`: the codes of that length are `nextCode counts l` up to it. -/
def codeEnd (counts : List Nat) (l : Nat) : Nat := nextCode counts l + counts.getD l 0

theorem nextCode_succ {counts : List Nat} (h : counts.getD 0 0 = 0) (l : Nat) :
    nextCode counts (l + 1) = codeEnd counts l * 2 := by
  cases l with
  | zero => simp only [codeEnd, nextCode, h]
  | succ l => rfl

/-- The codes of `k + 1` bits more begin behind the extensions of the codes there are. -/
theorem codeEnd_mul_le {counts : List Nat} (h : counts.getD 0 0 = 0) (l k : Nat) :
    codeEnd counts l * 2 ^ (k + 1) ≤ nextCode counts (l + k + 1) := by
  induction k with
  | zero => rw [nextCode_succ h]; rfl
  | succ k ih =>
    rw [nextCode_succ h, Nat.pow_succ, ← Nat.mul_assoc]
    exact Nat.mul_le_mul_right 2 (ih.trans (Nat.le_add_right _ _))

theorem codeEnd_lengthCounts (lens : List Nat) {l : Nat} (h : l ≤ 15) :
    codeEnd (lengthCounts lens) l = codeSpace ((List.range' 1 l).map fun l => lens.count l) := by
  induction l with
  | zero => rfl
  | succ l ih =>
    rw [codeEnd, nextCode_succ rfl, ih (Nat.le_of_succ_le h), lengthCounts_getD (Nat.le_add_left 1 l) h,
      List.range'_1_concat, List.map_append, List.map_singleton, codeSpace_concat, Nat.add_comm 1 l]
    ring

theorem codeEnd_fifteen {lens : List Nat} (h : ∀ l ∈ lens, l ≤ 15) :
    codeEnd (lengthCounts lens) 15 = codeSpaceUsed lens := by
  rw [codeEnd_lengthCounts lens (Nat.le_refl 15), ← codeSpace_lengthCounts h]
  rfl

/-- Without over-subscription every code fits in its bits. -/
theorem codeEnd_le {lens : List Nat} (h : ∀ l ∈ lens, l ≤ 15) (hfits : codeSpaceUsed lens ≤ 2 ^ 15) {l : Nat}
    (hl : l ≤ 15) : codeEnd (lengthCounts lens) l ≤ 2 ^ l := by
  rw [← codeEnd_fifteen h] at hfits
  obtain rfl | hlt := hl.eq_or_lt
  · exact hfits
  · obtain ⟨k, hk⟩ := Nat.exists_eq_add_of_lt hlt
    have hgrow := codeEnd_mul_le (counts := lengthCounts lens) rfl l k
    rw [← hk] at hgrow
    have hend : codeEnd (lengthCounts lens) l * 2 ^ (k + 1) ≤ 2 ^ l * 2 ^ (k + 1) := by
      rw [← Nat.pow_add, ← Nat.add_assoc, ← hk]
      exact hgrow.trans ((Nat.le_add_right _ _).trans hfits)
    exact Nat.le_of_mul_le_mul_right hend (Nat.two_pow_pos _)

/-! ### Bits that are a code -/

/-- `Decode` matches after reading `bits`: as a number they lie below the last code of their length. -/
def Hits (counts : List Nat) (bits : List Bool) : Prop := codeValue bits < codeEnd counts bits.length

/-- Nothing that `bits` begin with is a match. -/
def NoCode (counts : List Nat) (bits : List Bool) : Prop := ∀ q, q ≠ [] → q <+: bits → ¬ Hits counts q

/-- The symbol of a table that a matching code stands for. -/
def HuffTable.symbolOf (t : HuffTable) (bits : List Bool) : Nat :=
  t.symbol.getD ((t.count.take bits.length).sum + (codeValue bits - nextCode t.count bits.length)) noSymbol

theorem NoCode.of_prefix {counts : List Nat} {a b : List Bool} (h : NoCode counts b) (hab : a <+: b) :
    NoCode counts a := fun q hne hq => h q hne (hq.trans hab)

/-- Bits either begin with no match, or with a first one. -/
theorem noCode_or_first_hit (counts : List Nat) (bits : List Bool) :
    NoCode counts bits
      ∨ ∃ p b rest, bits = p ++ [b] ++ rest ∧ NoCode counts p ∧ Hits counts (p ++ [b]) := by
  induction bits using List.reverseRecOn with
  | nil => exact .inl fun q hne hq => absurd (List.prefix_nil.mp hq) hne
  | append_singleton bits b ih =>
    obtain hno | ⟨p, b', rest, rfl, hp, hhit⟩ := ih
    · by_cases hhit : Hits counts (bits ++ [b])
      · exact .inr ⟨bits, b, [], by simp, hno, hhit⟩
      · refine .inl fun q hne hq => ?_
        obtain rfl | hq := List.prefix_concat_iff.mp hq
        · exact hhit
        · exact hno q hne hq
    · exact .inr ⟨p, b', rest ++ [b], by simp, hp, hhit⟩

/-! ### `Decode` bit by bit -/

/-- The traversal registers when `bits` have been read and no code has matched. -/
def Traversal.after (counts : List Nat) (bits : List Bool) : Traversal where
  code := 2 * codeValue bits
  first := nextCode counts (bits.length + 1)
  index := (counts.take (bits.length + 1)).sum
  len := bits.length + 1

theorem Traversal.after_nil {counts : List Nat} (h : counts.getD 0 0 = 0) :
    Traversal.after counts [] = Traversal.fresh := by
  have hindex : (counts.take 1).sum = 0 := by rw [sum_take_succ_getD, h]; rfl
  simp only [Traversal.after, List.length_nil, hindex]
  rfl

/-- `ReadBit` neither looks at nor changes the traversal registers. -/
theorem readBit_done_withTrav {s t : State} {b : Bool} (h : readBit s = .done b t) (tr : Traversal) :
    readBit { s with trav := tr } = .done b { t with trav := tr } := by
  unfold readBit at h ⊢
  split at h
  · rename_i hn
    split at h
    · split at h <;> cases h
    · rename_i hf
      cases h
      simp only [hn, hf, if_true]
  · rename_i hn
    cases h
    simp only [hn, if_false]

/-- One more bit of a code: it matches, or the registers are those after one bit more. -/
theorem decodeLoop_bit {t : HuffTable} {s u : State} {b : Bool} (hzero : t.count.getD 0 0 = 0)
    (hread : readBit s = .done b u) (k : Nat) (bits : List Bool) :
    (Hits t.count (bits ++ [b]) →
      decodeLoop t (k + 1) { s with trav := .after t.count bits }
        = .done (t.symbolOf (bits ++ [b])) { u with trav := .fresh })
    ∧ (¬ Hits t.count (bits ++ [b]) →
      decodeLoop t (k + 1) { s with trav := .after t.count bits }
        = decodeLoop t k { u with trav := .after t.count (bits ++ [b]) }) := by
  have hcode : 2 * codeValue bits + b.toNat = codeValue (bits ++ [b]) := by rw [codeValue_concat, Nat.add_comm]
  have hlen : bits.length + 1 = (bits ++ [b]).length := by rw [List.length_append, List.length_singleton]
  rw [decodeLoop_succ, readBit_done_withTrav hread]
  simp only [Traversal.after, hcode, hlen]
  refine ⟨fun hhit => if_pos hhit, fun hmiss => (if_neg hmiss).trans ?_⟩
  rw [nextCode_succ hzero, sum_take_succ_getD, Nat.mul_comm 2, codeEnd]

/-- Bits without a match are read, and the registers follow them. -/
theorem decodeLoop_takeBits {t : HuffTable} {s : State} {bits p : List Bool} {r : Reader}
    (hzero : t.count.getD 0 0 = 0) (h : takeBits bits.length s = some (bits, { s with rd := r }))
    (hmiss : ∀ q, q ≠ [] → q <+: bits → ¬ Hits t.count (p ++ q)) (m : Nat) :
    decodeLoop t (bits.length + m) { s with trav := .after t.count p }
      = decodeLoop t m { s with rd := r, trav := .after t.count (p ++ bits) } := by
  induction bits generalizing s p with
  | nil =>
    obtain ⟨-, hs⟩ := Prod.mk.inj (Option.some.inj h)
    have hr : s.rd = r := congrArg State.rd hs
    simp [← hr]
  | cons b bs ih =>
    simp only [List.length_cons, takeBits] at h
    split at h
    · cases h
    · rename_i b' u hread
      obtain ⟨⟨cs, v⟩, htake, hpair⟩ := Option.map_eq_some_iff.mp h
      obtain ⟨hcons, rfl⟩ := Prod.mk.inj hpair
      obtain ⟨rfl, rfl⟩ := List.cons.inj hcons
      obtain ⟨hu, -⟩ := readBit_done hread
      rw [hu] at htake
      have hfirst := hmiss [b'] nofun ⟨_, rfl⟩
      have hlater : ∀ q, q ≠ [] → q <+: cs → ¬ Hits t.count (p ++ [b'] ++ q) := fun q _ hq => by
        rw [List.append_assoc]
        exact hmiss _ nofun (List.cons_prefix_cons.mpr ⟨rfl, hq⟩)
      rw [List.length_cons, Nat.add_right_comm, (decodeLoop_bit hzero hread _ _).2 hfirst, hu]
      simpa using ih htake hlater

/-- From its beginning `Decode` reads bits without a match up to the 15th. -/
theorem decodeSymbol_noCode {t : HuffTable} {s : State} {bits : List Bool} {r : Reader}
    (hzero : t.count.getD 0 0 = 0) (hfresh : s.trav = Traversal.fresh)
    (h : takeBits bits.length s = some (bits, { s with rd := r })) (hno : NoCode t.count bits) {m : Nat}
    (hm : bits.length + m = 15) :
    decodeSymbol t s = decodeLoop t m { s with rd := r, trav := .after t.count bits } := by
  have hstart : s = { s with trav := .after t.count [] } := by rw [Traversal.after_nil hzero, ← hfresh]
  have hloop := decodeLoop_takeBits (p := []) hzero h hno m
  rw [← hstart, hm] at hloop
  rw [decodeSymbol, hfresh]
  exact hloop

/-- `Decode` answers with the symbol of the first match, and consumes exactly its bits. -/
theorem decodeSymbol_first_hit {t : HuffTable} {s : State} {bits rest : List Bool} {b : Bool}
    (hzero : t.count.getD 0 0 = 0) (hfresh : s.trav = Traversal.fresh) (hlen : bits.length < 15)
    (hno : NoCode t.count bits) (hhit : Hits t.count (bits ++ [b])) (hpend : s.rd.pendingBits = bits ++ [b] ++ rest) :
    ∃ r : Reader, decodeSymbol t s = .done (t.symbolOf (bits ++ [b])) { s with rd := r } ∧ r.pendingBits = rest := by
  rw [List.append_assoc] at hpend
  obtain ⟨r, htake, hrest⟩ := takeBits_of_le (k := bits.length) (s := s) (by simp [hpend])
  rw [hpend, List.take_left] at htake
  rw [hpend, List.drop_left] at hrest
  obtain ⟨u, hread⟩ := readBit_of_pending (s := { s with rd := r }) hrest
  obtain ⟨hu, hurest, -⟩ := readBit_done hread
  obtain ⟨m, hm⟩ := Nat.exists_eq_add_of_lt hlen
  refine ⟨u.rd, ?_, (List.cons.inj (hrest.symm.trans hurest)).2.symm⟩
  rw [decodeSymbol_noCode (m := m + 1) hzero hfresh htake hno hm.symm, (decodeLoop_bit hzero hread _ _).1 hhit, hu,
    ← hfresh]

/-! ### The canonical code of a symbol -/

/-- Among the symbols of its length a symbol stands behind the smaller ones. -/
theorem symbolsOfLength_getElem? {lens : List Nat} {sym l : Nat} (h : lens[sym]? = some l) (s : Nat) :
    (symbolsOfLength l s lens)[(lens.take sym).count l]? = some (s + sym) := by
  induction lens generalizing sym s with
  | nil => simp at h
  | cons x xs ih =>
    cases sym with
    | zero =>
      obtain rfl : x = l := by simpa using h
      simp [symbolsOfLength]
    | succ sym =>
      have hrest := ih (by simpa using h) (s + 1)
      rw [Nat.add_right_comm] at hrest
      rw [symbolsOfLength, List.take_succ_cons, List.count_cons]
      split <;> simp_all [Nat.add_assoc]

/-- In canonical order a symbol stands behind the symbols of shorter codes and the smaller ones of its own length. -/
theorem canonicalSymbols_getElem? {lens : List Nat} {sym l : Nat} (h : lens[sym]? = some l) (hpos : 1 ≤ l)
    (hle : l ≤ 15) :
    (canonicalSymbols lens)[((lengthCounts lens).take l).sum + (lens.take sym).count l]? = some sym := by
  obtain ⟨k, rfl⟩ := Nat.exists_eq_add_of_le hpos
  have hsplit : List.range' 1 15 = List.range' 1 k ++ (1 + k) :: List.range' (1 + k + 1) (14 - k) := by
    rw [← List.range'_succ, List.range'_append_1]
    congr 1
    omega
  have hshorter : ((List.range' 1 k).flatMap fun l => symbolsOfLength l 0 lens).length
      = ((lengthCounts lens).take (1 + k)).sum := by
    rw [lengthCounts, hsplit, Nat.add_comm, List.take_succ_cons, List.sum_cons, List.map_append,
      List.take_left' (by simp), List.length_flatMap]
    simp [symbolsOfLength_length]
  have hsym := symbolsOfLength_getElem? h 0
  rw [Nat.zero_add] at hsym
  rw [canonicalSymbols, hsplit, List.flatMap_append, List.flatMap_cons, ← hshorter,
    List.getElem?_append_right (Nat.le_add_right _ _), Nat.add_sub_cancel_left,
    List.getElem?_append_left (List.getElem?_eq_some_iff.mp hsym).1, hsym]

/-- A coded symbol's canonical code: its value, which lies among the codes of its length. -/
theorem canonicalCode_spec {lens : List Nat} {sym l : Nat} (h : ∀ l ∈ lens, l ≤ 15)
    (hfits : codeSpaceUsed lens ≤ 2 ^ 15) (hsym : lens[sym]? = some l) (hpos : 1 ≤ l) :
    (canonicalCode lens sym).length = l
      ∧ codeValue (canonicalCode lens sym) = nextCode (lengthCounts lens) l + (lens.take sym).count l
      ∧ Hits (lengthCounts lens) (canonicalCode lens sym) := by
  have hle : l ≤ 15 := h l (List.mem_of_getElem? hsym)
  have hrank : (lens.take sym).count l < lens.count l := by
    obtain ⟨hlt, hget⟩ := List.getElem?_eq_some_iff.mp hsym
    conv_rhs => rw [← List.take_append_drop sym lens, List.count_append, List.drop_eq_getElem_cons hlt, hget,
      List.count_cons_self]
    omega
  have hcode : canonicalCode lens sym
      = msbBits l (nextCode (lengthCounts lens) l + (lens.take sym).count l) := by
    rw [canonicalCode, List.getD_eq_getElem?_getD, hsym, Option.getD_some]
  have hbelow : nextCode (lengthCounts lens) l + (lens.take sym).count l < codeEnd (lengthCounts lens) l := by
    rw [codeEnd, lengthCounts_getD hpos hle]
    omega
  have hvalue := codeValue_msbBits (hbelow.trans_le (codeEnd_le h hfits hle))
  rw [Hits, hcode, msbBits_length, hvalue]
  exact ⟨rfl, rfl, hbelow⟩

/-- Every code begins behind the extensions of the shorter ones: none of them begins it. -/
theorem not_hits_of_proper_prefix {counts : List Nat} (hzero : counts.getD 0 0 = 0) {p q : List Bool} (hq : q ≠ [])
    (hle : nextCode counts (p ++ q).length ≤ codeValue (p ++ q)) : ¬ Hits counts p := by
  intro hhit
  obtain ⟨k, hk⟩ := Nat.exists_eq_add_of_le' (List.length_pos_iff.mpr hq)
  have hgrow := codeEnd_mul_le hzero p.length k
  have htail := codeValue_lt q
  rw [List.length_append, codeValue_append] at hle
  have hmul := Nat.mul_le_mul_right (2 ^ q.length) (Nat.succ_le_of_lt hhit)
  rw [Nat.add_assoc, ← hk] at hgrow
  rw [Nat.succ_mul, Nat.mul_comm] at hmul
  omega

theorem build_fits {lens : List Nat} (h : ∀ l ∈ lens, l ≤ 15) (hstatus : (build lens).status ≠ .oversub) :
    codeSpaceUsed lens ≤ 2 ^ 15 :=
  Nat.not_lt.mp fun hover => hstatus ((tableStatusByCodeSpace lens h).2.1.mpr hover)

/-- The table gives a coded symbol's canonical code back as that symbol. -/
theorem symbolOf_canonicalCode {lens : List Nat} {sym l : Nat} (h : ∀ l ∈ lens, l ≤ 15)
    (hstatus : (build lens).status ≠ .oversub) (hsym : lens[sym]? = some l) (hpos : 1 ≤ l) :
    (build lens).symbolOf (canonicalCode lens sym) = sym := by
  have hmem : l ∈ lens := List.mem_of_getElem? hsym
  obtain ⟨hlen, hvalue, -⟩ := canonicalCode_spec h (build_fits h hstatus) hsym hpos
  rw [HuffTable.symbolOf, build_count, hlen, hvalue, Nat.add_sub_cancel_left,
    build_symbol (fun hall => Nat.ne_of_gt hpos (hall l hmem)) hstatus, List.getD_eq_getElem?_getD,
    canonicalSymbols_getElem? hsym hpos (h l hmem), Option.getD_some]

/-- A coded symbol's canonical code matches at its last bit and not before. -/
theorem canonicalCode_first_hit {lens : List Nat} {sym l : Nat} (h : ∀ l ∈ lens, l ≤ 15)
    (hfits : codeSpaceUsed lens ≤ 2 ^ 15) (hsym : lens[sym]? = some l) (hpos : 1 ≤ l) :
    ∃ p b, canonicalCode lens sym = p ++ [b] ∧ p.length < 15 ∧ NoCode (lengthCounts lens) p
      ∧ Hits (lengthCounts lens) (p ++ [b]) := by
  obtain ⟨hlen, hvalue, hhit⟩ := canonicalCode_spec h hfits hsym hpos
  have hle : l ≤ 15 := h l (List.mem_of_getElem? hsym)
  obtain hnil | ⟨p, b, hcode⟩ := List.eq_nil_or_concat' (canonicalCode lens sym)
  · rw [hnil] at hlen
    exact absurd hlen.symm (Nat.ne_of_gt hpos)
  rw [hcode] at hlen hvalue hhit
  refine ⟨p, b, hcode, ?_, fun q _ hq => ?_, hhit⟩
  · rw [List.length_append, List.length_singleton] at hlen
    omega
  · obtain ⟨tail, rfl⟩ := hq
    rw [List.append_assoc] at hlen hvalue
    refine not_hits_of_proper_prefix (q := tail ++ [b]) rfl (by simp) ?_
    rw [hlen, hvalue]
    exact Nat.le_add_right _ _

/-- The canonical code of a coded symbol decodes to it (spec/42_huffman.md R268). -/
theorem decodeSymbol_canonicalCode {lens : List Nat} {sym : Nat} {s : State} {rest : List Bool}
    (h : ∀ l ∈ lens, l ≤ 15) (hstatus : (build lens).status ≠ .oversub) (hcoded : lens.getD sym 0 ≠ 0)
    (hfresh : s.trav = Traversal.fresh) (hpend : s.rd.pendingBits = canonicalCode lens sym ++ rest) :
    ∃ r : Reader, decodeSymbol (build lens) s = .done sym { s with rd := r } ∧ r.pendingBits = rest := by
  rw [List.getD_eq_getElem?_getD] at hcoded
  obtain ⟨l, hsym⟩ : ∃ l, lens[sym]? = some l :=
    Option.ne_none_iff_exists'.mp fun hnone => hcoded (by rw [hnone]; rfl)
  rw [hsym] at hcoded
  have hpos : 1 ≤ l := Nat.one_le_iff_ne_zero.mpr hcoded
  obtain ⟨p, b, hcode, hlt, hno, hhit⟩ := canonicalCode_first_hit h (build_fits h hstatus) hsym hpos
  have hsymbol := symbolOf_canonicalCode h hstatus hsym hpos
  rw [hcode] at hpend hsymbol
  rw [← build_count] at hno hhit
  obtain ⟨r, hdone, hrest⟩ := decodeSymbol_first_hit (by rw [build_count]; rfl) hfresh hlt hno hhit hpend
  rw [hsymbol] at hdone
  exact ⟨r, hdone, hrest⟩

/-! ### A table whose codes fill the code space -/

theorem decodeSymbol_complete {lens : List Nat} {s : State} (h : ∀ l ∈ lens, l ≤ 15)
    (hstatus : (build lens).status = .complete) (hfresh : s.trav = Traversal.fresh)
    (hpend : 15 ≤ s.rd.pendingBits.length) :
    ∃ sym t, decodeSymbol (build lens) s = .done sym t ∧ sym < lens.length := by
  have hused : codeSpaceUsed lens = 2 ^ 15 := (tableStatusByCodeSpace lens h).2.2.1.mp hstatus
  have hlen : (s.rd.pendingBits.take 15).length = 15 := List.length_take_of_le hpend
  obtain hno | ⟨p, b, rest, hbits, hno, hhit⟩ :=
    noCode_or_first_hit (build lens).count (s.rd.pendingBits.take 15)
  · refine absurd ?_ (hno _ (List.length_pos_iff.mp (by omega)) List.prefix_rfl)
    rw [Hits, hlen, build_count, codeEnd_fifteen h, hused]
    exact (codeValue_lt _).trans_eq (by rw [hlen])
  · have hlt : p.length < 15 := by
      have := congrArg List.length hbits
      simp only [List.length_append, List.length_singleton, hlen] at this
      omega
    have hsplit : s.rd.pendingBits = p ++ [b] ++ (rest ++ s.rd.pendingBits.drop 15) := by
      rw [← List.append_assoc, ← hbits, List.take_append_drop]
    obtain ⟨r, hdone, -⟩ := decodeSymbol_first_hit (by rw [build_count]; rfl) hfresh hlt hno hhit hsplit
    have hsound := build_sound (Nat.le_refl lens.length) (by rw [hstatus]; exact nofun)
    exact ⟨_, _, hdone, (decodeLoop_done hdone).1 _ hsound (by rw [hfresh]; exact Traversal.fresh_within hsound)⟩

/-! ### Bits that match no code -/

theorem all_zero_of_build_empty {lens : List Nat} (h : (build lens).status = .empty) : ∀ l ∈ lens, l = 0 := by
  by_contra hne
  rw [build_of_ne_zero hne] at h
  split at h
  · cases h
  · simp only [classify] at h
    split_ifs at h

theorem codeEnd_of_le_one {lens : List Nat} (h : ∀ l ∈ lens, l ≤ 1) (l : Nat) :
    codeEnd (lengthCounts lens) (l + 1) = lens.count 1 * 2 ^ l := by
  induction l with
  | zero => rw [codeEnd, lengthCounts_getD (Nat.le_refl 1) (by decide), nextCode]; simp
  | succ l ih =>
    have hnone : (lengthCounts lens).getD (l + 2) 0 = 0 := by
      obtain hle | hgt := le_or_gt (l + 2) 15
      · rw [lengthCounts_getD (by omega) hle, List.count_eq_zero]
        exact fun hmem => by have := h _ hmem; omega
      · exact List.getD_eq_default _ _ (by rw [lengthCounts_length]; omega)
    rw [codeEnd, nextCode_succ rfl, ih, hnone, Nat.pow_succ]
    ring

/-- With no code at all, or with the code 0 alone and a first bit that is not 0, nothing matches. -/
theorem noCode_of_le_one {lens : List Nat} {bits : List Bool} (h : ∀ l ∈ lens, l ≤ 1)
    (hbits : lens.count 1 = 0 ∨ lens.count 1 = 1 ∧ bits.head? ≠ some false) : NoCode (lengthCounts lens) bits := by
  intro q hne hq hhit
  obtain ⟨b, q', rfl⟩ := List.exists_cons_of_ne_nil hne
  rw [Hits, List.length_cons, codeEnd_of_le_one h] at hhit
  obtain hzero | ⟨hone, hhead⟩ := hbits
  · rw [hzero, Nat.zero_mul] at hhit
    exact Nat.not_lt_zero _ hhit
  · obtain ⟨rest, rfl⟩ := hq
    have htrue : b = true := by simpa using hhead
    have hvalue : codeValue (b :: q') = codeValue q' + 2 ^ q'.length * 1 := by
      rw [htrue]
      exact codeValue_append [true] q'
    rw [hone, hvalue] at hhit
    omega

/-- What R269 says of the tables it names: neither has a code that the unread bits begin with. -/
theorem noCode_of_build {lens : List Nat} {bits : List Bool}
    (h : (build lens).status = .empty ∨
      (build lens).status = .single1 ∧ bits.head? ≠ some false ∧ ∀ l ∈ lens, l ≤ 15) :
    NoCode (build lens).count bits := by
  rw [build_count]
  obtain hempty | ⟨hsingle, hhead, hle⟩ := h
  · have hzero := all_zero_of_build_empty hempty
    refine noCode_of_le_one (fun l hl => (hzero l hl).trans_le (Nat.zero_le 1)) (.inl (List.count_eq_zero.mpr ?_))
    exact fun hmem => absurd (hzero 1 hmem) (by decide)
  · obtain ⟨hone, hle1⟩ := (tableStatusByCodeSpace lens hle).2.2.2.1.mp hsingle
    exact noCode_of_le_one hle1 (.inr ⟨hone, hhead⟩)

/-- After 15 bits without a match INVALID_CODE is raised. -/
theorem decodeSymbol_invalid {t : HuffTable} {s : State} (hzero : t.count.getD 0 0 = 0)
    (hfresh : s.trav = Traversal.fresh) (hno : NoCode t.count s.rd.pendingBits) (hpend : 15 ≤ s.rd.pendingBits.length) :
    ∃ (r : Reader) (tr : Traversal), takeBits 15 s = some (s.rd.pendingBits.take 15, { s with rd := r })
      ∧ decodeSymbol t s = .stop (raise .invalidCode { s with rd := r, trav := tr }) := by
  obtain ⟨r, htake, -⟩ := takeBits_of_le hpend
  have hlen : (s.rd.pendingBits.take 15).length = 15 := List.length_take_of_le hpend
  refine ⟨r, _, htake, decodeSymbol_noCode (m := 0) hzero hfresh ?_ (hno.of_prefix (List.take_prefix _ _)) hlen⟩
  rw [hlen, htake]

/-- Where the input ends before the 15th bit without a match TRUNCATED is raised. -/
theorem decodeSymbol_truncated {t : HuffTable} {s : State} (hzero : t.count.getD 0 0 = 0)
    (hfresh : s.trav = Traversal.fresh) (hno : NoCode t.count s.rd.pendingBits) (hpend : s.rd.pendingBits.length < 15)
    (heoi : s.rd.eoi = true) : ∃ u, decodeSymbol t s = .stop (raise .truncated u) := by
  obtain ⟨r, htake, hrest⟩ := takeBits_of_le (Nat.le_refl s.rd.pendingBits.length)
  rw [List.take_length] at htake
  rw [List.drop_length] at hrest
  obtain ⟨m, hm⟩ := Nat.exists_eq_add_of_lt hpend
  obtain ⟨-, hreoi, -⟩ := takeBits_keeps htake
  obtain ⟨u, hread⟩ :=
    readBit_stop_of_pending_nil (s := { s with rd := r, trav := .after t.count s.rd.pendingBits }) hrest
  obtain ⟨-, -, hu⟩ := readBit_stop hread
  rw [hreoi, heoi, if_pos rfl] at hu
  exact ⟨_, by rw [decodeSymbol_noCode (m := m + 1) hzero hfresh htake hno hm.symm, decodeLoop_succ, hread, hu]⟩

/-- Settles O15: `Decode` answers with the first code that the unread bits begin with. No shorter code begins a canonical
one, 15 bits below a full code space begin with a code, and the tables without codes match nothing. -/
theorem canonicalCodesDecode : Obligations.CanonicalCodesDecode := by
  refine ⟨?canonical, ?complete, ?invalid⟩
  case canonical =>
    intro lens sym s rest h hstatus hcoded hfresh hpend
    obtain ⟨r, hdone, hrest⟩ := decodeSymbol_canonicalCode h hstatus hcoded hfresh hpend
    exact ⟨_, hdone, rfl, hrest⟩
  case complete => exact fun lens s => decodeSymbol_complete
  case invalid =>
    intro lens s htable hfresh
    have hno := noCode_of_build htable
    have hzero : (build lens).count.getD 0 0 = 0 := by rw [build_count]; rfl
    refine ⟨fun hpend => ?_, fun hpend heoi => ?_⟩
    · obtain ⟨r, tr, htake, hstop⟩ := decodeSymbol_invalid hzero hfresh hno hpend
      exact ⟨r, tr, htake, hstop, rfl, rfl, rfl⟩
    · obtain ⟨u, hstop⟩ := decodeSymbol_truncated hzero hfresh hno hpend heoi
      exact ⟨_, hstop, rfl, rfl, rfl⟩

end Sys2Proof.Machine
end

section
/-! The fixed tables and the block headers (spec/41_zlib_blocks.md R227 to R234, spec/42_huffman.md R251, R252). -/

namespace Sys2Proof.Machine

/-! ### The fixed codes -/

/-- In a run of symbols of one code length the codes count up, from behind the codes of that length before the run. -/
theorem canonicalCode_of_run {lens pre post : List Nat} {start n l first : Nat}
    (hlens : lens = pre ++ List.replicate n l ++ post) (hstart : pre.length = start)
    (hfirst : nextCode (lengthCounts lens) l + pre.count l = first) {sym : Nat} (hge : start ≤ sym)
    (hlt : sym < start + n) :
    lens.getD sym 0 = l ∧ canonicalCode lens sym = msbBits l (first + (sym - start)) := by
  subst hstart
  have hrun : sym - pre.length < n := Nat.sub_lt_left_of_lt_add hge hlt
  have hrunLength : sym - pre.length < (List.replicate n l).length := by rwa [List.length_replicate]
  rw [List.append_assoc] at hlens
  have hlength : lens.getD sym 0 = l := by
    rw [hlens, List.getD_append_right _ _ _ _ hge, List.getD_append _ _ _ _ hrunLength, List.getD_replicate _ hrun]
  have htake : lens.take sym = pre ++ List.replicate (sym - pre.length) l := by
    rw [hlens, List.take_append, List.take_of_length_le hge, List.take_append_of_le_length hrunLength.le,
      List.take_replicate, Nat.min_eq_left hrun.le]
  refine ⟨hlength, ?_⟩
  rw [canonicalCode, hlength, htake, List.count_append, List.count_replicate_self, ← hfirst, Nat.add_assoc]

/-- The canonical codes of FIXED_LIT are the ones spec/30_encoding.md R130 tabulates, run by run. -/
theorem canonicalCode_fixedLit {sym : Nat} (h : sym < 288) :
    fixedLitLengths.getD sym 0 ≠ 0 ∧ canonicalCode fixedLitLengths sym = fixedLitCode sym := by
  obtain hlt | ⟨hge, hlt⟩ | ⟨hge, hlt⟩ | hge :
      sym < 144 ∨ (144 ≤ sym ∧ sym < 256) ∨ (256 ≤ sym ∧ sym < 280) ∨ 280 ≤ sym := by omega
  · obtain ⟨hlen, hcode⟩ := canonicalCode_of_run (lens := fixedLitLengths) (pre := []) (n := 144) (l := 8)
      (post := List.replicate 112 9 ++ (List.replicate 24 7 ++ List.replicate 8 8)) (first := 0x30)
      (by simp only [fixedLitLengths, List.append_assoc, List.nil_append]) List.length_nil (by decide +kernel)
      (Nat.zero_le sym) (by omega)
    rw [hlen, hcode, fixedLitCode, if_pos hlt]
    exact ⟨by decide, rfl⟩
  · obtain ⟨hlen, hcode⟩ := canonicalCode_of_run (lens := fixedLitLengths) (pre := List.replicate 144 8) (n := 112)
      (l := 9) (post := List.replicate 24 7 ++ List.replicate 8 8) (first := 0x190)
      (by simp only [fixedLitLengths, List.append_assoc]) List.length_replicate (by decide +kernel) hge (by omega)
    rw [hlen, hcode, fixedLitCode, if_neg (by omega), if_pos hlt]
    exact ⟨by decide, rfl⟩
  · obtain ⟨hlen, hcode⟩ := canonicalCode_of_run (lens := fixedLitLengths)
      (pre := List.replicate 144 8 ++ List.replicate 112 9) (n := 24) (l := 7) (start := 256) (first := 0) rfl
      (by simp only [List.length_append, List.length_replicate]) (by decide +kernel) hge (by omega)
    rw [hlen, hcode, fixedLitCode, if_neg (by omega), if_neg (by omega), if_pos hlt, Nat.zero_add]
    exact ⟨by decide, rfl⟩
  · obtain ⟨hlen, hcode⟩ := canonicalCode_of_run (lens := fixedLitLengths)
      (pre := List.replicate 144 8 ++ List.replicate 112 9 ++ List.replicate 24 7) (n := 8) (l := 8) (start := 280)
      (first := 0xC0) (List.append_nil _).symm (by simp only [List.length_append, List.length_replicate])
      (by decide +kernel) hge (by omega)
    rw [hlen, hcode, fixedLitCode, if_neg (by omega), if_neg (by omega), if_neg (by omega)]
    exact ⟨by decide, rfl⟩

/-- The canonical codes of FIXED_DIST are the symbols in 5 bits (spec/42_huffman.md R252). -/
theorem canonicalCode_fixedDist {sym : Nat} (h : sym < 32) :
    (List.replicate 32 5).getD sym 0 ≠ 0 ∧ canonicalCode (List.replicate 32 5) sym = fixedDistCode sym := by
  obtain ⟨hlen, hcode⟩ := canonicalCode_of_run (pre := []) (n := 32) (l := 5) (post := []) (first := 0) rfl
    List.length_nil (by decide +kernel) (Nat.zero_le sym) (by omega)
  rw [List.nil_append, List.append_nil] at hlen hcode
  rw [hlen, hcode, fixedDistCode, Nat.zero_add]
  exact ⟨by decide, rfl⟩

theorem fixedLit_complete : fixedLit.status = .complete := by decide +kernel

theorem fixedDist_complete : fixedDist.status = .complete := by decide +kernel

/-- Settles O14: the fixed codes are the canonical ones of the fixed lengths. -/
theorem fixedCodesDecode : Obligations.FixedCodesDecode := by
  refine ⟨⟨rfl, rfl⟩, ⟨fixedLit_complete, fixedDist_complete⟩, ?lit, ?dist⟩
  case lit =>
    intro sym s rest hsym hfresh hpend
    obtain ⟨hcoded, hcode⟩ := canonicalCode_fixedLit hsym
    have hle : ∀ l ∈ fixedLitLengths, l ≤ 15 := by decide +kernel
    exact canonicalCodesDecode.1 fixedLitLengths sym s rest hle (fixedLit_complete ▸ nofun) hcoded hfresh
      (hcode ▸ hpend)
  case dist =>
    intro sym s rest hsym hfresh hpend
    obtain ⟨hcoded, hcode⟩ := canonicalCode_fixedDist hsym
    have hle : ∀ l ∈ List.replicate 32 5, l ≤ 15 := by decide
    exact canonicalCodesDecode.1 _ sym s rest hle (fixedDist_complete ▸ nofun) hcoded hfresh (hcode ▸ hpend)

/-! ### The block headers -/

/-- Settles O10: the four headers write the registers of `blockHeader`, a stored one aligns, a fixed one takes the fixed
tables, a reserved one raises. -/
theorem blockHeaderResults : Obligations.BlockHeaderResults := by
  intro bfinal s
  refine ⟨?stored, ?fixed, ?dynamic, ?reserved⟩
  case stored =>
    have hexec : exec (.blkStored bfinal) s = .next (alignToByte (blockHeader bfinal 0#2 .pStoredHdr s)) := rfl
    rw [hexec, alignToByte, blockHeader]
  case fixed =>
    have hexec : exec (.blkFixed bfinal) s
        = .next { blockHeader bfinal 1#2 .pSym s with tab := { s.tab with lit := fixedLit, dist := fixedDist } } := rfl
    rw [hexec, blockHeader, fixedLit, fixedLitLengths, fixedDist]
  case dynamic =>
    have hexec : exec (.blkDynamic bfinal) s = .next (blockHeader bfinal 2#2 .pDynCounts s) := rfl
    rw [hexec, blockHeader]
  case reserved =>
    have hexec : exec (.blkReserved bfinal) s
        = .next (raise .btypeReserved (blockHeader bfinal 3#2 .pBhdr s)) := rfl
    rw [hexec, blockHeader]

end Sys2Proof.Machine
end

section
/-! Dynamic block headers (spec/42_huffman.md R253 to R266). -/

namespace Sys2Proof.Machine

/-! ### The counts and the code-length code -/

/-- Settles O16: both rows store the counts by `setCounts`; good ones clear `cl`, bad ones raise. -/
theorem dynHeaderResults : Obligations.DynHeaderResults := by
  intro hlit hdist hclen s
  refine ⟨?good, ?bad⟩
  case good =>
    have hexec : exec (.dynHdr hlit hdist hclen) s = execDynHdr hlit hdist hclen s := rfl
    rw [hexec, execDynHdr, setCounts]
  case bad =>
    have hexec : exec (.dynHdrBadCounts hlit hdist hclen) s
        = .next (raise .dynCounts (setCounts hlit hdist hclen s)) := rfl
    rw [hexec, setCounts]

theorem cltAccepted_iff (t : HuffTable) : cltAccepted t = true ↔ t.status = .complete := decide_eq_true_iff

/-- Settles O17: one field fills its place of `cl`; at the last one the code-length code is built and checked. -/
theorem codeLengthCodeResults : Obligations.CodeLengthCodeResults := by
  intro length s
  have hexec : exec (.cll length) s = execCll length s := rfl
  rw [hexec, execCll]
  refine ⟨fun hlt => ?more, fun hle hcomplete => ?accepted, fun hle hbad => ?refused⟩
  case more => exact if_pos hlt
  case accepted => exact (if_neg (Nat.not_lt.mpr hle)).trans (if_pos ((cltAccepted_iff _).mpr hcomplete))
  case refused => exact (if_neg (Nat.not_lt.mpr hle)).trans (if_neg fun hok => hbad ((cltAccepted_iff _).mp hok))

/-! ### The code lengths -/

/-- The state with `n` code lengths `v` more. -/
def withLengths (n : Nat) (v : BitVec 4) (s : State) : State :=
  { s with
    dyn := { s.dyn with lens := s.dyn.lens ++ List.replicate n v }
    eng := { s.eng with phase := .pDynLens } }

theorem withLengths_length (n : Nat) (v : BitVec 4) (s : State) :
    (withLengths n v s).dyn.lens.length = s.dyn.lens.length + n := by
  simp [withLengths]

theorem appendLengths_of_lt {n : Nat} {s : State} (h : s.dyn.lens.length + n < s.dyn.hlit + s.dyn.hdist)
    (v : BitVec 4) : appendLengths n v s = withLengths n v s :=
  if_pos ((withLengths_length n v s).trans_lt h)

theorem appendLengths_of_le {n : Nat} {s : State} (h : s.dyn.hlit + s.dyn.hdist ≤ s.dyn.lens.length + n)
    (v : BitVec 4) : appendLengths n v s = buildBlockTables (withLengths n v s) :=
  if_neg (Nat.not_lt.mpr (h.trans_eq (withLengths_length n v s).symm))

/-- Settles O18: one code length is appended, and the sequence goes on or is complete. -/
theorem codeLengthAppends : Obligations.CodeLengthAppends := by
  intro length s
  have hexec : exec (.clLen length) s = .next (appendLengths 1 length s) := rfl
  rw [hexec]
  refine ⟨fun hlt => ?more, fun hle => ?complete⟩
  case more => rw [appendLengths_of_lt hlt, withLengths, List.replicate_one]
  case complete => rw [appendLengths_of_le hle, withLengths, List.replicate_one]

/-- A repeat past the end stores nothing (spec/42_huffman.md R266). -/
theorem repeatLengths_of_lt {n : Nat} {s : State} (h : s.dyn.hlit + s.dyn.hdist < s.dyn.lens.length + n)
    (v : BitVec 4) : repeatLengths n v s = raise .repeatOverrun s :=
  if_pos h

theorem repeatLengths_of_le {n : Nat} {s : State} (h : s.dyn.lens.length + n ≤ s.dyn.hlit + s.dyn.hdist)
    (v : BitVec 4) : repeatLengths n v s = appendLengths n v s :=
  if_neg (Nat.not_lt.mpr h)

theorem execClRepeatPrev_first {s : State} (h : s.dyn.lens = []) :
    execClRepeatPrev s = .next (raise .repeatNoPrev s) := by
  rw [execClRepeatPrev, h]
  rfl

theorem execClRepeatPrev_later {s : State} {v : BitVec 4} (h : s.dyn.lens.getLast? = some v) :
    execClRepeatPrev s = .next (repeatSymbol 16#9 3 2 v s) := by
  rw [execClRepeatPrev, h]

/-- Settles O19: a repeat symbol reads its extra bits as any field, which completes or stops as the bits at hand suffice
or not; the copies then run past the end, stay before it, or reach it. -/
theorem repeatAppendsLengths : Obligations.RepeatAppendsLengths := by
  refine ⟨fun s => execClRepeatPrev_first, ?_⟩
  intro i sym base extra v s hi hle k pend t
  have hexec : exec i s = .next (repeatSymbol (BitVec.ofNat 9 sym) base extra v s) := by
    obtain ⟨rfl, rfl, rfl, rfl, hlast⟩ | ⟨rfl, rfl, rfl, rfl, rfl⟩ | ⟨rfl, rfl, rfl, rfl, rfl⟩ := hi
    · exact execClRepeatPrev_later hlast
    · rfl
    · rfl
  refine ⟨fun hk => ?done, fun hlt => ?stop⟩
  case done =>
    obtain ⟨r, htake, -, hread⟩ := readField_done hk
    refine ⟨r, htake, ?_⟩
    let u := t { r with fieldBits := [] } .pDynExtra s.dyn.lens
    have hrepeat : exec i s = .next (repeatLengths (base + bitsToNat (s.rd.fieldBits ++ pend.take k)) v u) := by
      rw [hexec, repeatSymbol, hread]
    rw [hrepeat]
    refine ⟨fun hover => ?overrun, fun hmore => ?more, fun hend => ?complete⟩
    case overrun => exact congrArg _ (repeatLengths_of_lt (s := u) hover v)
    case more =>
      exact congrArg _ ((repeatLengths_of_le (s := u) hmore.le v).trans (appendLengths_of_lt (s := u) hmore v))
    case complete =>
      exact congrArg _ ((repeatLengths_of_le (s := u) hend.le v).trans (appendLengths_of_le (s := u) hend.ge v))
  case stop =>
    obtain ⟨r, htake, hread⟩ := readField_stop (n := extra) (Nat.add_lt_of_lt_sub' hlt)
    obtain ⟨u, hstop, hends⟩ := hread { s.eng with phase := .pDynExtra, sym := BitVec.ofNat 9 sym }
    exact ⟨r, htake, by rw [hexec, repeatSymbol, hstop]; exact hends.symm⟩

/-! ### The block's tables -/

theorem litAccepted_iff (t : HuffTable) : litAccepted t = true ↔ t.status = .complete ∨ t.status = .single1 := by
  simp only [litAccepted, Bool.or_eq_true, decide_eq_true_iff]

theorem distAccepted_iff (t : HuffTable) :
    distAccepted t = true ↔ t.status = .complete ∨ t.status = .single1 ∨ t.status = .empty := by
  simp only [distAccepted, Bool.or_eq_true, decide_eq_true_iff, or_assoc]

/-- Settles O20: the three checks in the order in which `buildBlockTables` makes them. -/
theorem blockTablesInOrder : Obligations.BlockTablesInOrder := by
  intro s lens lit dist t u litOk distOk
  have hlit : build (litLengths s.dyn) = lit := by rw [litLengths, List.map_take]
  have hdist : build (distLengths s.dyn) = dist := by rw [distLengths, List.map_take, List.map_drop]
  rw [buildBlockTables, hlit, hdist]
  refine ⟨fun heob => ?noEob, fun heob hbad => ?badLit, fun heob hok hbad => ?badDist, fun heob hok hok' => ?accepted⟩
  case noEob => exact if_pos heob
  case badLit => exact (if_neg heob).trans (if_neg fun h => hbad ((litAccepted_iff lit).mp h))
  case badDist =>
    exact (if_neg heob).trans ((if_pos ((litAccepted_iff lit).mpr hok)).trans
      (if_neg fun h => hbad ((distAccepted_iff dist).mp h)))
  case accepted =>
    exact (if_neg heob).trans ((if_pos ((litAccepted_iff lit).mpr hok)).trans
      (if_pos ((distAccepted_iff dist).mpr hok')))

end Sys2Proof.Machine
end

section
/-! The body of a Huffman block: the literals, the distance symbols, the reserved symbols and the copy
(spec/43_lz77.md R300 to R302, R333 to R336, R366 to R370). -/

namespace Sys2Proof.Machine

/-! ### Emitting a byte -/

theorem emit_within_image {s : State} (h : s.row.rowsDone ≠ s.ses.height) (v : Byte) :
    emit v s =
      { s with
        win := winWrite v s.win
        eng := { s.eng with outCount := s.eng.outCount + 1#32 }
        row := { s.row with pending := some v } } := by
  rw [emit, if_neg h]

theorem emit_beyond_image {s : State} (h : s.row.rowsDone = s.ses.height) (v : Byte) :
    emit v s =
      { s with win := winWrite v s.win, eng := { s.eng with outCount := s.eng.outCount + 1#32 } } := by
  rw [emit, if_pos h]

/-- Settles O21: `emit` at the phase P_SYM, within the image and beyond it. -/
theorem literalEmitsByte : Obligations.LiteralEmitsByte := by
  intro v s t
  let u : State := { s with eng := { s.eng with phase := .pSym } }
  refine ⟨fun h => ?within, fun h => ?beyond⟩
  case within => exact congrArg _ (emit_within_image (s := u) h v)
  case beyond => exact congrArg _ (emit_beyond_image (s := u) h v)

/-! ### Distance symbols -/

theorem checkDistance_of_le {s : State} (h : s.eng.copyDist.toNat ≤ s.win.hist) :
    checkDistance s = { s with eng := { s.eng with phase := .pCopy } } := if_neg h.not_gt

theorem checkDistance_of_lt {s : State} (h : s.win.hist < s.eng.copyDist.toNat) :
    checkDistance s = raise .distTooFar s := if_pos h

/-- Base and extra bits of a distance symbol fit in `copy_dist`. -/
theorem distanceRow_toNat {i : Instr} {sym base extra : Nat} (hmem : (i, sym, base, extra) ∈ distanceRows)
    {bits : List Bool} (hlen : bits.length = extra) :
    (BitVec.ofNat 16 (base + bitsToNat bits)).toNat = base + bitsToNat bits := by
  obtain ⟨-, -, -, hmax⟩ := distanceRow_range _ hmem
  dsimp only at hmax
  have hbits := bitsToNat_lt bits
  rw [hlen] at hbits
  exact Nat.mod_eq_of_lt (by omega)

/-- Settles O24: a distance symbol reads its extra bits as any field; a complete one meets the check of R368. -/
theorem distanceSymbolResults : Obligations.DistanceSymbolResults := by
  intro i sym base extra s hmem hle k pend
  have hexec : exec i s = .next (distanceSymbol (BitVec.ofNat 9 sym) base extra s) := exec_distanceRow _ hmem s
  refine ⟨fun hk => ?done, fun hlt => ?stop⟩
  case done =>
    obtain ⟨r, htake, hrest, hread⟩ := readField_done hk
    refine ⟨r, htake, hrest, ?_⟩
    intro d t
    have hlen : (s.rd.fieldBits ++ pend.take k).length = extra := by
      rw [List.length_append, List.length_take_of_le hk]
      exact Nat.add_sub_cancel' hle
    have hdist : (BitVec.ofNat 16 d).toNat = d := distanceRow_toNat hmem hlen
    have hcheck : exec i s = .next (checkDistance (t .pDistExtra)) := by rw [hexec, distanceSymbol, hread]
    rw [hcheck]
    refine ⟨fun hnear => ?copy, fun hfar => ?raise⟩
    case copy => exact congrArg _ (checkDistance_of_le (s := t .pDistExtra) (hdist.trans_le hnear))
    case raise => exact congrArg _ (checkDistance_of_lt (s := t .pDistExtra) (hfar.trans_eq hdist.symm))
  case stop =>
    obtain ⟨r, htake, hread⟩ := readField_stop (n := extra) (Nat.add_lt_of_lt_sub' hlt)
    obtain ⟨t, hstop, hends⟩ := hread { s.eng with phase := .pDistExtra, sym := BitVec.ofNat 9 sym }
    exact ⟨r, htake, by rw [hexec, distanceSymbol, hstop]; exact hends.symm⟩

/-! ### Reserved symbols -/

/-- Settles O25: the instructions' meanings, and the last two rows of either table of symbols. -/
theorem reservedSymbolsRaise : Obligations.ReservedSymbolsRaise :=
  fun _ => ⟨rfl, rfl, rfl, rfl, rfl, rfl, rfl, rfl⟩

/-! ### One iteration of the copy -/

theorem copyByte_of_zero {s : State} (h : s.eng.copyLen = 0#9) :
    copyByte s = { s with eng := { s.eng with phase := .pSym } } := if_pos h

theorem copyByte_of_ne_zero {s : State} (h : s.eng.copyLen ≠ 0#9) :
    copyByte s =
      emit (winRead s.eng.copyDist.toNat s.win) { s with eng := { s.eng with copyLen := s.eng.copyLen - 1#9 } } :=
  if_neg h

/-- `WinRead` at the address `(wp - d) mod 32768` (spec/20_memory.md R96). -/
theorem winRead_eq_read (d : Nat) (w : Window) :
    winRead d w = Memory.read w.win ((w.wp.toNat + 32768 - d % 32768) % 32768) := by
  have haddr : (w.wp - BitVec.ofNat 15 d).toNat = (w.wp.toNat + 32768 - d % 32768) % 32768 := by
    rw [BitVec.toNat_sub, BitVec.toNat_ofNat]
    omega
  rw [winRead, haddr]

theorem step_copy {s : State} (hbusy : engineIdle s = false) (hrow : s.row.pending = none)
    (hp : s.eng.phase = .pCopy) :
    step s = .next (copyByte { s with eng := { s.eng with needInput := false } }) :=
  step_internal hbusy (by rw [fetch_of_no_row hrow, fetchPhase, hp])

/-- Settles O26: the two branches of `copyByte`, with the address that `WinRead` reads. -/
theorem copyStepResults : Obligations.CopyStepResults := by
  intro s hbusy hrow hp
  let t : State := { s with eng := { s.eng with needInput := false } }
  have hstep : step s = .next (copyByte t) := step_copy hbusy hrow hp
  rw [hstep]
  refine ⟨fun hlen => ?finished, fun hlen => ?byte⟩
  case finished => exact congrArg _ (copyByte_of_zero (s := t) hlen)
  case byte =>
    intro v
    have hv : winRead t.eng.copyDist.toNat t.win = v := winRead_eq_read _ _
    rw [copyByte_of_ne_zero (s := t) hlen, hv]
    rfl

/-! ### The whole copy -/

theorem wf_winWrite {w : Window} (v : Byte) (hw : Memory.wf 32768 w.win = true) :
    Memory.wf 32768 (winWrite v w).win = true :=
  Memory.wf_write hw w.wp.isLt

theorem winRead_one_winWrite {w : Window} (v : Byte) (hw : Memory.wf 32768 w.win = true) :
    winRead 1 (winWrite v w) = v := by
  obtain ⟨-, -, -, -, hlast, -⟩ := windowWriteThenRead v w hw
  exact hlast

theorem winRead_succ_winWrite {w : Window} (v : Byte) (hw : Memory.wf 32768 w.win = true) {d : Nat} (hpos : 1 ≤ d)
    (hlt : d < 32768) : winRead (d + 1) (winWrite v w) = winRead d w := by
  obtain ⟨-, -, -, -, -, holder⟩ := windowWriteThenRead v w hw
  exact holder d hpos hlt

/-- A copy of `n` bytes moves the bytes before it `n` positions back. -/
theorem winRead_add_copyWindow {d n k : Nat} {w : Window} (hw : Memory.wf 32768 w.win = true) (hpos : 1 ≤ k)
    (hmax : k + n ≤ 32768) : winRead (k + n) (copyWindow d n w) = winRead k w := by
  induction n generalizing w k with
  | zero => rfl
  | succ n ih =>
    calc winRead (k + (n + 1)) (copyWindow d (n + 1) w)
        = winRead (k + 1 + n) (copyWindow d n (winWrite (winRead d w) w)) := by rw [copyWindow]; congr 1; omega
      _ = winRead (k + 1) (winWrite (winRead d w) w) := ih (wf_winWrite _ hw) (by omega) (by omega)
      _ = winRead k w := winRead_succ_winWrite _ hw hpos (by omega)

/-- One iteration of the copy turns the period by one byte: seen after it, the last `d` bytes begin one byte later, and
the one that was first has come back as the last. -/
theorem winRead_period_winWrite {d : Nat} {w : Window} (hw : Memory.wf 32768 w.win = true) (hpos : 1 ≤ d)
    (hmax : d ≤ 32768) (j : Nat) :
    winRead (d - j % d) (winWrite (winRead d w) w) = winRead (d - (j + 1) % d) w := by
  have hlt := Nat.mod_lt j hpos
  by_cases hlast : j % d + 1 = d
  · have hnext : (j + 1) % d = 0 := by rw [← Nat.mod_add_mod, hlast, Nat.mod_self]
    rw [hnext, Nat.sub_zero, show d - j % d = 1 by omega]
    exact winRead_one_winWrite _ hw
  · have hnext : (j + 1) % d = j % d + 1 := by rw [← Nat.mod_add_mod, Nat.mod_eq_of_lt (by omega)]
    rw [hnext, show d - j % d = d - (j % d + 1) + 1 by omega]
    exact winRead_succ_winWrite _ hw (by omega) (by omega)

/-- Settles O27, by induction on the number of iterations: the first byte produced is the one `d` back, and the bytes
after it are those of a copy that begins one byte later. -/
theorem copyRepeatsWithPeriod : Obligations.CopyRepeatsWithPeriod := by
  intro d n j w hw hpos hmax hn hj
  induction n generalizing j w with
  | zero => exact absurd hj (Nat.not_lt_zero j)
  | succ n ih =>
    have hw' := wf_winWrite (winRead d w) hw
    rw [copyWindow]
    cases j with
    | zero =>
      rw [Nat.sub_zero, Nat.zero_mod, Nat.sub_zero, Nat.add_comm, winRead_add_copyWindow hw' le_rfl (by omega)]
      exact winRead_one_winWrite _ hw
    | succ j =>
      rw [Nat.add_sub_add_right, ih j _ hw' (by omega) (by omega)]
      exact winRead_period_winWrite hw hpos hmax j

end Sys2Proof.Machine
end

section
/-! The row stream: what a row instruction does at column 0 and at a later column, the Paeth predictor, the round trip
of a filtered row, the row commit, and the engine stopped by a waiting row (spec/45_defilter.md R401 to R414). -/

namespace Sys2Proof.Machine

/-! ### The row instructions -/

theorem filterByte_first {s : State} {v : Byte} (hpending : s.row.pending = some v) (hcol : s.row.col = 0)
    (f : FilterType) (p : Byte → Byte → Byte → Byte) : filterByte f p s = selectFilter f s := by
  simp only [filterByte, hpending, hcol, if_true]

theorem filterByte_later {s : State} {v : Byte} (hpending : s.row.pending = some v) (hcol : s.row.col ≠ 0)
    (f : FilterType) (p : Byte → Byte → Byte → Byte) :
    filterByte f p s =
      putRowByte v
        (p (neighbourA s (s.row.col - 1)) (neighbourB s (s.row.col - 1)) (neighbourC s (s.row.col - 1))) s := by
  simp only [filterByte, hpending, hcol, if_false]

theorem exec_filterInstr_first {s : State} {v : Byte} (hpending : s.row.pending = some v) (hcol : s.row.col = 0)
    (f : FilterType) : exec (filterInstr f) s = .next (selectFilter f s) := by
  rw [exec_filterInstr, filterByte_first hpending hcol]

theorem exec_filterInstr_later {s : State} {v : Byte} (hpending : s.row.pending = some v) (hcol : s.row.col ≠ 0)
    (f : FilterType) :
    exec (filterInstr f) s =
      .next (putRowByte v (prediction f (neighbourA s (s.row.col - 1)) (neighbourB s (s.row.col - 1))
        (neighbourC s (s.row.col - 1))) s) := by
  rw [exec_filterInstr, filterByte_later hpending hcol]

/-- Settles O28: a row instruction at column 0, for each filter type. -/
theorem filterTypeByteResults : Obligations.FilterTypeByteResults := by
  intro v s hpending hcol sel
  have hsel (f : FilterType) : exec (filterInstr f) s = .next (sel f) := exec_filterInstr_first hpending hcol f
  exact ⟨hsel .none, hsel .sub, hsel .up, hsel .avg, hsel .paeth, rfl⟩

theorem average_toNat (a b : Byte) : (average a b).toNat = (a.toNat + b.toNat) / 2 :=
  Nat.mod_eq_of_lt (by omega)

/-- Settles O29: a row instruction at a later column, with each filter's prediction as a number. -/
theorem filterReconstructsByte : Obligations.FilterReconstructsByte := by
  intro v s hpending hcol x bpp a b c put
  have hsum (p : Byte) : v + p = BitVec.ofNat 8 ((v.toNat + p.toNat) % 256) :=
    BitVec.eq_of_toNat_eq (by simp)
  have hput (f : FilterType) : exec (filterInstr f) s = .next (put (prediction f a b c).toNat) := by
    rw [exec_filterInstr_later hpending hcol, putRowByte, hsum]
    rfl
  refine ⟨hput .none, hput .sub, hput .up, ?avg, hput .paeth⟩
  case avg =>
    rw [← average_toNat]
    exact hput .avg

/-! ### The Paeth predictor -/

/-- The distance of a candidate from the estimate `a + b - c` (spec/45_defilter.md R409). -/
def paethDistance (a b c p : Byte) : Nat := ((a.toNat : Int) + b.toNat - c.toNat - p.toNat).natAbs

/-- The three answers of the predictor, each with the comparisons that lead to it. -/
theorem paeth_cases (a b c : Byte) :
    (paeth a b c = a ∧ paethDistance a b c a ≤ paethDistance a b c b
        ∧ paethDistance a b c a ≤ paethDistance a b c c)
      ∨ (paeth a b c = b ∧ paethDistance a b c b < paethDistance a b c a
        ∧ paethDistance a b c b ≤ paethDistance a b c c)
      ∨ (paeth a b c = c ∧ paethDistance a b c c < paethDistance a b c a
        ∧ paethDistance a b c c < paethDistance a b c b) := by
  unfold paeth paethDistance
  dsimp only
  split_ifs with hleft hup
  · exact .inl ⟨rfl, hleft⟩
  · exact .inr (.inl ⟨rfl, by omega, hup⟩)
  · exact .inr (.inr ⟨rfl, by omega, by omega⟩)

theorem paeth_left (a : Byte) : paeth a 0#8 0#8 = a := by
  have hzero : paethDistance a 0#8 0#8 a = 0 := by simp [paethDistance]
  obtain ⟨h, -⟩ | ⟨-, hlt, -⟩ | ⟨-, hlt, -⟩ := paeth_cases a 0#8 0#8
  · exact h
  all_goals omega

theorem paeth_up (b : Byte) : paeth 0#8 b 0#8 = b := by
  have hzero : paethDistance 0#8 b 0#8 b = 0 := by simp [paethDistance]
  obtain ⟨h, hle, -⟩ | ⟨h, -⟩ | ⟨-, -, hlt⟩ := paeth_cases 0#8 b 0#8
  · have hb : b.toNat = 0 := by simpa [paethDistance] using hle
    rw [h]
    exact BitVec.eq_of_toNat_eq hb.symm
  · exact h
  · omega

/-- Settles O31: by the three answers of the predictor. -/
theorem paethPicksClosest : Obligations.PaethPicksClosest := by
  intro a b c dist
  have hdist : dist = paethDistance a b c := rfl
  rw [hdist]
  obtain ⟨h, hb, hc⟩ | ⟨h, ha, hc⟩ | ⟨h, ha, hb⟩ := paeth_cases a b c
  · rw [h]
    exact ⟨.inl rfl, le_rfl, hb, hc, fun _ => rfl, fun hne => absurd rfl hne, paeth_left a, paeth_up b⟩
  · rw [h]
    exact ⟨.inr (.inl rfl), ha.le, le_rfl, hc, fun heq => absurd heq ha.ne', fun _ _ => rfl, paeth_left a,
      paeth_up b⟩
  · rw [h]
    exact ⟨.inr (.inr rfl), ha.le, hb.le, le_rfl, fun heq => absurd heq ha.ne', fun _ heq => absurd heq hb.ne',
      paeth_left a, paeth_up b⟩

/-! ### The round trip of a filtered row -/

/-- `cur` has the first `k` bytes of the row `r`, and is `old` beyond them. -/
structure RowPrefix (cap : Nat) (r : Nat → Byte) (old : Memory) (k : Nat) (cur : Memory) : Prop where
  wf : Memory.wf cap cur = true
  done : ∀ x, x < k → Memory.read cur x = r x
  rest : ∀ x, k ≤ x → Memory.read cur x = Memory.read old x

theorem RowPrefix.write {cap k : Nat} {r : Nat → Byte} {old cur : Memory} (h : RowPrefix cap r old k cur)
    (hk : k < cap) : RowPrefix cap r old (k + 1) (Memory.write cur k (r k)) where
  wf := Memory.wf_write h.wf hk
  done x hx := by
    obtain rfl | hlt := Nat.eq_or_lt_of_le (Nat.le_of_lt_succ hx)
    · exact Memory.read_write_same h.wf
    · rw [Memory.read_write_other hlt.ne', h.done x hlt]
  rest x hx := by rw [Memory.read_write_other (Nat.ne_of_lt hx), h.rest x (Nat.le_of_succ_le hx)]

/-- `s` with `cur` as the current row after its filter-type byte and `k` of its `n` bytes (spec/45_defilter.md R401,
R402, R410). -/
def State.inRow (s : State) (t : FilterType) (n k : Nat) (cur : Memory) : State :=
  { s with
    row :=
      { s.row with
        cur := cur, col := if k = n then 0 else k + 1, ftype := t, rowReady := decide (k = n), pending := none } }

theorem neighbourA_of_done {s : State} {r : Nat → Byte} {k : Nat} (hbpp : 1 ≤ s.ses.bpp.toNat)
    (hdone : ∀ x, x < k → Memory.read s.row.cur x = r x) :
    neighbourA s k = if s.ses.bpp.toNat ≤ k then r (k - s.ses.bpp.toNat) else 0#8 := by
  unfold neighbourA
  split
  · exact hdone _ (Nat.sub_lt_of_pos_le hbpp ‹_›)
  · rfl

/-- The upper-left neighbour is the upper one of the position `bpp` to the left (spec/45_defilter.md R403). -/
theorem neighbourC_eq (s : State) (k : Nat) :
    neighbourC s k = if s.ses.bpp.toNat ≤ k then neighbourB s (k - s.ses.bpp.toNat) else 0#8 := by
  unfold neighbourC neighbourB
  by_cases hleft : s.ses.bpp.toNat ≤ k <;> by_cases hfirst : s.row.rowsDone = 0#32 <;> simp [hleft, hfirst]

/-- Once the bytes before `k` are those of the row, a row instruction predicts at `k` what the filter subtracted. -/
theorem filteredByte_add_prediction {s : State} {r : Nat → Byte} {k : Nat} (hbpp : 1 ≤ s.ses.bpp.toNat)
    (hdone : ∀ x, x < k → Memory.read s.row.cur x = r x) (t : FilterType) :
    filteredByte t s.ses.bpp.toNat (neighbourB s) r k
      + prediction t (neighbourA s k) (neighbourB s k) (neighbourC s k) = r k := by
  rw [neighbourA_of_done hbpp hdone, neighbourC_eq, filteredByte]
  exact BitVec.sub_add_cancel _ _

/-- The byte `v` handed to the row stream (spec/43_lz77.md R301). -/
def State.handByte (s : State) (v : Byte) : State := { s with row := { s.row with pending := some v } }

theorem feedRow_cons (t : FilterType) (v : Byte) (vs : List Byte) (s : State) :
    feedRow t (v :: vs) s = andThen (exec (filterInstr t) (s.handByte v)) (feedRow t vs) := rfl

/-- The filter-type byte leads to the beginning of the row. -/
theorem exec_filterInstr_typeByte {s : State} {n : Nat} (hn : 1 ≤ n) (hcol : s.row.col = 0)
    (hready : s.row.rowReady = false) (t : FilterType) (v : Byte) :
    exec (filterInstr t) (s.handByte v) = .next (s.inRow t n 0 s.row.cur) := by
  have hne : 0 ≠ n := Nat.ne_of_lt hn
  rw [exec_filterInstr_first (s := s.handByte v) rfl hcol]
  simp [selectFilter, State.handByte, State.inRow, hne, hready]

section
variable {s : State} {n cap k : Nat} {r : Nat → Byte} {cur : Memory} (hstride : s.ses.stride = n + 1)
  (hbpp : 1 ≤ s.ses.bpp.toNat) (hcap : n ≤ cap) (t : FilterType)
include hstride hbpp

/-- The filtered byte of position `k` puts the row's byte there. -/
theorem exec_filterInstr_filteredByte (hk : k < n) (hdone : ∀ x, x < k → Memory.read cur x = r x) :
    exec (filterInstr t) ((s.inRow t n k cur).handByte (filteredByte t s.ses.bpp.toNat (neighbourB s) r k))
      = .next (s.inRow t n (k + 1) (Memory.write cur k (r k))) := by
  let u := (s.inRow t n k cur).handByte (filteredByte t s.ses.bpp.toNat (neighbourB s) r k)
  have hcol : u.row.col = k + 1 := if_neg hk.ne
  have hbyte : filteredByte t s.ses.bpp.toNat (neighbourB s) r k
      + prediction t (neighbourA u k) (neighbourB u k) (neighbourC u k) = r k :=
    filteredByte_add_prediction (s := u) hbpp hdone t
  have hend : (k + 1 + 1 = u.ses.stride) = (k + 1 = n) :=
    hstride ▸ propext Nat.add_right_cancel_iff
  rw [exec_filterInstr_later (s := u) rfl (hcol.trans_ne (Nat.succ_ne_zero k)), hcol, Nat.add_sub_cancel, putRowByte,
    hbyte, hcol, Nat.add_sub_cancel]
  simp only [hend]
  rfl

include hcap

/-- The filtered bytes from position `k` on complete the row. -/
theorem feedRow_filteredBytes {m : Nat} (hm : k + m = n) (h : RowPrefix cap r s.row.cur k cur) :
    ∃ cur', RowPrefix cap r s.row.cur n cur'
      ∧ feedRow t ((List.range' k m).map (filteredByte t s.ses.bpp.toNat (neighbourB s) r)) (s.inRow t n k cur)
        = .next (s.inRow t n n cur') := by
  induction m generalizing k cur with
  | zero =>
    obtain rfl : k = n := hm
    exact ⟨cur, h, rfl⟩
  | succ m ih =>
    have hk : k < n := by omega
    obtain ⟨cur', hcur', hfeed⟩ := ih (by omega) (h.write (hk.trans_le hcap))
    refine ⟨cur', hcur', ?_⟩
    rw [List.range'_succ, List.map_cons, feedRow_cons, exec_filterInstr_filteredByte hstride hbpp t hk h.done]
    exact hfeed

end

/-- Settles O32: the filter-type byte begins the row, the filtered bytes complete it one by one. -/
theorem filterRoundTrip : Obligations.FilterRoundTrip := by
  intro t v r n cap s _ hn hcap hstride hbpp hcol hready _ hwf q
  have hbegin : RowPrefix cap r s.row.cur 0 s.row.cur := ⟨hwf, nofun, fun _ _ => rfl⟩
  obtain ⟨cur, hcur, hfeed⟩ := feedRow_filteredBytes hstride hbpp hcap t (Nat.zero_add n) hbegin
  refine ⟨s.inRow t n n cur, ?_, hcur.done, hcur.rest, ?_⟩
  · rw [feedRow_cons, exec_filterInstr_typeByte hn hcol hready, List.range_eq_range']
    exact hfeed
  · simp [State.inRow]

/-! ### The row commit -/

/-- Settles O36: the two branches of ROW_ACK, with the prior row byte by byte. -/
theorem rowAckResult : Obligations.RowAckResult := by
  intro s
  refine ⟨fun hrun hready => ?commit, fun hnot => ?ignored⟩
  case commit =>
    exact ⟨Memory.copyBelow s.ses.rowbytes s.row.cur s.row.prior, if_pos ⟨hrun, hready⟩,
      Memory.read_copyBelow s.ses.rowbytes s.row.cur s.row.prior⟩
  case ignored => exact if_neg hnot

/-! ### The engine while a row waits -/

/-- What the host's instructions other than START, ABORT and ROW_ACK do: they write the CFG registers, the FIFO, the
end-of-input flag and the host's fields, or a byte too many raises IN_OVERFLOW. -/
theorem exec_host_cases {i : Instr} {s t : State} (hi : HostInstr i) (hstart : i ≠ .ctrlStart)
    (habort : i ≠ .ctrlAbort) (hack : i ≠ .ctrlRowAck) (hex : exec i s = .next t) :
    t = { s with regs := t.regs, rd := { s.rd with fifo := t.rd.fifo, eoi := t.rd.eoi }, host := t.host }
      ∨ t = { raise .inOverflow s with host := t.host } := by
  cases hi with
  | abort => exact absurd rfl habort
  | start => exact absurd rfl hstart
  | rowAck => exact absurd rfl hack
  | eoi =>
    have hex : execCtrlEoi s = .next t := hex
    unfold execCtrlEoi at hex
    split at hex <;> cases hex <;> exact .inl rfl
  | inData data =>
    have hex : execInDataWrite data s = .next t := hex
    unfold execInDataWrite at hex
    split_ifs at hex <;> cases hex
    · exact .inr rfl
    · exact .inl rfl
    · exact .inl rfl
  | rowRead w offset =>
    rw [(execRowRead_hostOnly hex).1]
    exact .inl rfl
  | busError a =>
    rw [(execBusError_hostOnly hex).1]
    exact .inl rfl
  | cfgWidth data | cfgHeight data | cfgBpp data | regRead offset | ignoredWrite w offset data =>
    cases hex
    exact .inl rfl

/-- From `s` to `t` the engine has stood still: a row waits or the session has ended, and no input was taken, no byte
emitted, no row written or counted (spec/45_defilter.md R410). -/
structure HeldByRow (s t : State) : Prop where
  waits : t.ses.state = .run → t.row.rowReady = true
  inCount : t.rd.inCount = s.rd.inCount
  nbits : t.rd.nbits = s.rd.nbits
  stores : t.stores = s.stores
  rowsDone : t.row.rowsDone = s.row.rowsDone

namespace HeldByRow

theorem idle {s t : State} (h : HeldByRow s t) : engineIdle t = true := by
  by_cases hrun : t.ses.state = .run
  · simp [engineIdle, h.waits hrun]
  · exact engineIdle_of_not_run hrun

theorem exec_host {i : Instr} {s t u : State} (h : HeldByRow s t) (hi : HostInstr i) (hstart : i ≠ .ctrlStart)
    (habort : i ≠ .ctrlAbort) (hack : i ≠ .ctrlRowAck) (hex : exec i t = .next u) : HeldByRow s u := by
  obtain hu | hu := exec_host_cases hi hstart habort hack hex
  · rw [hu]
    exact { h with }
  · rw [hu]
    exact ⟨nofun, h.inCount, h.nbits, h.stores, h.rowsDone⟩

theorem withHost {s t : State} (h : HeldByRow s t) (p : HostPort) : HeldByRow s { t with host := p } := { h with }

end HeldByRow

/-- An access that neither releases the row nor ends the session leaves the engine standing. -/
theorem hostAccess_heldByRow {a : BusAccess} {s t u : State} (h : HeldByRow s t)
    (haccess : ∀ i ∈ t.accessInstrs a, i ≠ .ctrlStart ∧ i ≠ .ctrlAbort ∧ i ≠ .ctrlRowAck)
    (hstep : hostAccess exec a t = .next u) : HeldByRow s u := by
  unfold hostAccess at hstep
  split at hstep
  · rw [(undecoded_hostOnly hstep).1]
    exact h.withHost _
  · refine hostOperations_induct (P := HeldByRow s) ?micro (fun i hi _ _ hw => ?host) h hstep
    case micro => exact fun _ _ hw hbusy => absurd (hw.idle.symm.trans hbusy) nofun
    case host =>
      obtain ⟨hstart, habort, hack⟩ := haccess i hi
      exact hw.exec_host (decodeAccess_host hi) hstart habort hack

/-- Settles O33: the engine is idle, so that a step is an access of the host, none of whose instructions moves it. -/
theorem rowStopsEngine : Obligations.RowStopsEngine := by
  intro s t hrun hready hstep haccess
  have hheld : HeldByRow s s := ⟨fun _ => hready, rfl, rfl, rfl, rfl⟩
  suffices h : HeldByRow s t from
    ⟨h.inCount, h.nbits, congrArg Stores.outCount h.stores, congrArg Stores.win h.stores,
      congrArg Stores.cur h.stores, congrArg Stores.prior h.stores, h.rowsDone⟩
  cases hqueue : s.host.queue with
  | nil =>
    simp only [step, stepWith, hheld.idle, hqueue, if_true] at hstep
    cases hstep
    exact hheld
  | cons a rest =>
    rw [step_access hheld.idle hqueue] at hstep
    obtain ⟨hack, hstart, habort⟩ := haccess a rest hqueue
    refine hostAccess_heldByRow (hheld.withHost _) (fun i hi => ⟨?_, ?_, ?_⟩) hstep
    · exact ne_of_mem_of_not_mem hi hstart
    · exact ne_of_mem_of_not_mem hi habort
    · exact ne_of_mem_of_not_mem hi hack

end Sys2Proof.Machine
end

section
/-! Reads that find the input at its end after END_OF_INPUT (spec/40_bit_reader.md R201): wherever the engine awaits a
bit, its next micro-step raises TRUNCATED and does nothing else. -/

namespace Sys2Proof.Machine

/-! ### The reads -/

/-- No bit is left, and END_OF_INPUT says that none will come (spec/40_bit_reader.md R201). -/
structure Reader.Exhausted (r : Reader) : Prop where
  bits : r.nbits = 0
  fifo : r.fifo = []
  eoi : r.eoi = true

theorem readBit_exhausted {s : State} (h : s.rd.Exhausted) : readBit s = .stop (raise .truncated s) := by
  simp [readBit, h.bits, h.fifo, h.eoi]

/-- A field that wants a bit, begun or resumed. -/
theorem readField_exhausted {n : Nat} {s : State} (h : s.rd.Exhausted) (hn : s.rd.fieldBits.length < n) :
    readField n s = .stop (raise .truncated s) := by
  obtain ⟨k, hk⟩ := Nat.exists_eq_succ_of_ne_zero (Nat.sub_ne_zero_of_lt hn)
  rw [readField, hk, readFieldLoop_succ, readBit_exhausted h]

/-- A code that may go on, begun or resumed. -/
theorem decodeSymbol_exhausted {tbl : HuffTable} {s : State} (h : s.rd.Exhausted) (hlen : s.trav.len ≤ 15) :
    decodeSymbol tbl s = .stop (raise .truncated s) := by
  obtain ⟨k, hk⟩ := Nat.exists_eq_succ_of_ne_zero (Nat.sub_ne_zero_of_lt (Nat.lt_succ_of_le hlen))
  rw [decodeSymbol, hk, decodeLoop_succ, readBit_exhausted h]

/-! ### The symbols with extra bits -/

/-- A symbol with extra bits is one of the rows. -/
theorem exists_row_of_extraOf_pos {rows : List (Instr × Nat × Nat × Nat)} {sym : Nat} (h : 0 < extraOf rows sym) :
    ∃ r ∈ rows, r.2.1 = sym := by
  induction rows with
  | nil => cases h
  | cons r rest ih =>
    unfold extraOf at h
    split at h
    · rename_i hsym
      exact ⟨r, List.mem_cons_self, hsym⟩
    · obtain ⟨r', hmem, hsym⟩ := ih h
      exact ⟨r', List.mem_cons_of_mem r hmem, hsym⟩

theorem decodeField_lengthRow : ∀ r ∈ lengthRows, decodeField .litlenSymbol r.2.1 = .ok r.1 := by decide

theorem decodeField_distanceRow : ∀ r ∈ distanceRows, decodeField .distSymbol r.2.1 = .ok r.1 := by decide

section
variable {s : State} (h : s.rd.Exhausted)
include h

section
variable {sym extra : Nat} (hsym : s.eng.sym.toNat = sym) (hn : s.rd.fieldBits.length < extra)
include hsym hn

/-- The extra bits of the symbol in `sym`, resumed at any phase. -/
theorem readField_extra_exhausted (p : Phase) :
    readField extra { s with eng := { s.eng with phase := p, sym := BitVec.ofNat 9 sym } }
      = .stop (raise .truncated s) := by
  rw [← hsym, BitVec.ofNat_toNat, BitVec.setWidth_eq]
  exact readField_exhausted (s := { s with eng := { s.eng with phase := p } }) h hn

theorem repeatSymbol_exhausted (base : Nat) (v : BitVec 4) :
    repeatSymbol (BitVec.ofNat 9 sym) base extra v s = raise .truncated s := by
  rw [repeatSymbol, readField_extra_exhausted h hsym hn]

theorem lengthSymbol_exhausted (base : Nat) :
    lengthSymbol (BitVec.ofNat 9 sym) base extra s = raise .truncated s := by
  rw [lengthSymbol, readField_extra_exhausted h hsym hn]

theorem distanceSymbol_exhausted (base : Nat) :
    distanceSymbol (BitVec.ofNat 9 sym) base extra s = raise .truncated s := by
  rw [distanceSymbol, readField_extra_exhausted h hsym hn]

end

/-- The repeat symbol in `sym`, where a repeat of the previous length has one. -/
theorem exists_repeat_exhausted (hn : s.rd.fieldBits.length < repeatExtra s.eng.sym.toNat)
    (hprev : s.eng.sym = 16#9 → s.dyn.lens ≠ []) :
    ∃ i, decodeField .clenSymbol s.eng.sym.toNat = .ok i ∧ exec i s = .next (raise .truncated s) := by
  unfold repeatExtra at hn
  split_ifs at hn with h16 h17 h18
  · have hlast := List.getLast?_eq_some_getLast (hprev (BitVec.eq_of_toNat_eq h16))
    exact ⟨.clRepeatPrev, h16 ▸ rfl,
      (execClRepeatPrev_later hlast).trans (congrArg _ (repeatSymbol_exhausted h h16 hn 3 _))⟩
  · exact ⟨.clRepeatZero3, h17 ▸ rfl, congrArg _ (repeatSymbol_exhausted h h17 hn 3 0#4)⟩
  · exact ⟨.clRepeatZero11, h18 ▸ rfl, congrArg _ (repeatSymbol_exhausted h h18 hn 11 0#4)⟩
  · exact absurd hn (Nat.not_lt_zero _)

/-- The length symbol in `sym`. -/
theorem exists_length_exhausted (hn : s.rd.fieldBits.length < extraOf lengthRows s.eng.sym.toNat) :
    ∃ i, decodeField .litlenSymbol s.eng.sym.toNat = .ok i ∧ exec i s = .next (raise .truncated s) := by
  obtain ⟨r, hr, hsym⟩ := exists_row_of_extraOf_pos (Nat.zero_lt_of_lt hn)
  obtain ⟨-, -, hextra, -⟩ := lengthRow_range r hr
  rw [← hsym, hextra] at hn
  refine ⟨r.1, hsym ▸ decodeField_lengthRow r hr, ?_⟩
  rw [exec_lengthRow r hr, lengthSymbol_exhausted h hsym.symm hn]

/-- The distance symbol in `sym`. -/
theorem exists_distance_exhausted (hn : s.rd.fieldBits.length < extraOf distanceRows s.eng.sym.toNat) :
    ∃ i, decodeField .distSymbol s.eng.sym.toNat = .ok i ∧ exec i s = .next (raise .truncated s) := by
  obtain ⟨r, hr, hsym⟩ := exists_row_of_extraOf_pos (Nat.zero_lt_of_lt hn)
  obtain ⟨-, hextra, -⟩ := distanceRow_range r hr
  rw [← hsym, hextra] at hn
  refine ⟨r.1, hsym ▸ decodeField_distanceRow r hr, ?_⟩
  rw [exec_distanceRow r hr, distanceSymbol_exhausted h hsym.symm hn]

/-! ### The micro-step -/

theorem engineStep_field_exhausted {p : Phase} {n : Nat}
    (hmem : ∃ f, (p, f, n) ∈ (.pZhdr, .zlibHeader, 16) :: fieldPhases) (hrow : s.row.pending = none)
    (hp : s.eng.phase = p) (hrem : p = .pStoredCopy → s.eng.lenRem ≠ 0#16) (hn : s.rd.fieldBits.length < n) :
    engineStep exec s = .next (raise .truncated s) := by
  obtain ⟨f, hmem⟩ := hmem
  rw [engineStep, fetch_field_stop hmem hrow hp hrem (readField_exhausted h hn)]
  rfl

theorem engineStep_coded_exhausted {p : Phase} (hmem : ∃ f tbl, (p, f, tbl) ∈ s.codedPhases)
    (hrow : s.row.pending = none) (hp : s.eng.phase = p) (hlen : s.trav.len ≤ 15) :
    engineStep exec s = .next (raise .truncated s) := by
  obtain ⟨f, tbl, hmem⟩ := hmem
  have hread : decodeSymbol tbl { s with eng := { s.eng with needInput := false } } = .stop (raise .truncated s) :=
    decodeSymbol_exhausted h hlen
  rw [engineStep, fetch_coded hmem hrow hp, hread, fetchRead_stop]

omit h in
/-- At a symbol's extra bits, where the symbol's instruction raises TRUNCATED. -/
theorem engineStep_extra_truncated {p : Phase} {f : Format} (hmem : (p, f) ∈ extraPhases)
    (hrow : s.row.pending = none) (hp : s.eng.phase = p)
    (hinstr : ∃ i, decodeField f s.eng.sym.toNat = .ok i
      ∧ exec i { s with eng := { s.eng with needInput := false } } = .next (raise .truncated s)) :
    engineStep exec s = .next (raise .truncated s) := by
  obtain ⟨i, hdec, hexec⟩ := hinstr
  rw [engineStep, fetch_extra hmem hrow hp, fetchDecoded_ok hdec]
  exact hexec

/-- Wherever the engine awaits a bit, TRUNCATED is raised: at a field, at a code, at the extra bits of a symbol. -/
theorem engineStep_exhausted (hawait : s.awaitsBit = true) : engineStep exec s = .next (raise .truncated s) := by
  obtain ⟨-, hrow⟩ := continues_of_awaitsBit hawait
  simp only [State.awaitsBit, hrow, decide_true, Bool.true_and] at hawait
  split at hawait <;> rename_i hp <;> simp only [Bool.and_eq_true, decide_eq_true_eq, reduceCtorEq] at hawait
  case h_3 | h_4 | h_5 | h_7 | h_8 =>
    exact engineStep_field_exhausted h (by simp [fieldPhases]) hrow hp nofun hawait
  case h_6 => exact engineStep_field_exhausted h (by simp [fieldPhases]) hrow hp (fun _ => hawait.1) hawait.2
  case h_9 | h_10 | h_11 => exact engineStep_coded_exhausted h (by simp [State.codedPhases]) hrow hp hawait
  case h_12 =>
    obtain ⟨hn, hlens⟩ := hawait
    have hprev : s.eng.sym = 16#9 → s.dyn.lens ≠ [] := by
      intro hsym hnil
      simp [hsym, hnil] at hlens
    exact engineStep_extra_truncated (by simp [extraPhases]) hrow hp
      (exists_repeat_exhausted (s := { s with eng := { s.eng with needInput := false } }) h hn hprev)
  case h_13 =>
    exact engineStep_extra_truncated (by simp [extraPhases]) hrow hp
      (exists_length_exhausted (s := { s with eng := { s.eng with needInput := false } }) h hawait)
  case h_14 =>
    exact engineStep_extra_truncated (by simp [extraPhases]) hrow hp
      (exists_distance_exhausted (s := { s with eng := { s.eng with needInput := false } }) h hawait)

end

end Sys2Proof.Machine
end

section
/-! The host's commands and writes (spec/48_host_interface.md R440 to R450, R453): what each does by itself, the
commands of one CTRL write in their order, and END_OF_INPUT given to an engine that waits for a byte. -/

namespace Sys2Proof.Machine

/-! ### START and ABORT -/

theorem configError_zeroDimension {w h : Word} (hdim : w = 0#32 ∨ h = 0#32) (c : Config) (p : BitVec 3) :
    configError c w h p = some .cfgZeroDimension :=
  if_pos hdim

section
variable {c : Config} {w h : Word} {p : BitVec 3} (hw : w ≠ 0#32) (hh : h ≠ 0#32)
include hw hh

theorem configError_bpp (hp : ¬ (1 ≤ p.toNat ∧ p.toNat ≤ 4)) : configError c w h p = some .cfgBpp := by
  rw [configError, if_neg (not_or.mpr ⟨hw, hh⟩), if_pos hp]

theorem configError_rowTooLong (hp : 1 ≤ p.toNat ∧ p.toNat ≤ 4) (hlong : c.maxRowBytes < w.toNat * p.toNat) :
    configError c w h p = some .cfgRowTooLong := by
  rw [configError, if_neg (not_or.mpr ⟨hw, hh⟩), if_neg (not_not.mpr hp), if_pos hlong]

theorem configError_none (hp : 1 ≤ p.toNat ∧ p.toNat ≤ 4) (hfits : w.toNat * p.toNat ≤ c.maxRowBytes) :
    configError c w h p = none := by
  rw [configError, if_neg (not_or.mpr ⟨hw, hh⟩), if_neg (not_not.mpr hp), if_neg (Nat.not_lt.mpr hfits)]

end

/-- Settles O34: START by the outcome of `ValidateConfig`, whose checks are made in order. -/
theorem startResult : Obligations.StartResult := by
  intro s w h p n base fails
  have hfails : ∀ c, configError s.cfg w h p = some c → fails c := by
    intro c hc
    show Host.Outcome.next (respond .written (start s)) = _
    rw [start, hc]
    rfl
  refine ⟨fun hdim => ?dimension, fun hw hh hp => ?bpp, fun hw hh hlow hhigh hlong => ?long,
    fun hw hh hlow hhigh hfits => ?valid⟩
  case dimension => exact hfails _ (configError_zeroDimension hdim _ _)
  case bpp => exact hfails _ (configError_bpp hw hh hp)
  case long => exact hfails _ (configError_rowTooLong hw hh ⟨hlow, hhigh⟩ hlong)
  case valid =>
    show Host.Outcome.next (respond .written (start s)) = _
    rw [start, configError_none hw hh ⟨hlow, hhigh⟩ hfits]
    rfl

theorem abort_status {s : State} (h : 1 ≤ s.cfg.inFifoDepth) : (abort s).status = 0#32 := by
  have hfull : (abort s).inFull = false := decide_eq_false (Nat.ne_of_lt h)
  rw [State.status, hfull]
  rfl

/-- Settles O35: every register by definition, STATUS by a FIFO that is not full. -/
theorem abortResult : Obligations.AbortResult := by
  intro s
  exact ⟨respond .written (abort s), rfl, rfl, rfl, rfl, rfl, rfl, rfl, rfl, rfl, rfl, rfl, rfl, rfl, rfl, rfl, rfl,
    abort_status, rfl⟩

/-! ### EOI and the writes -/

/-- Settles O37: the two branches of EOI. -/
theorem eoiResult : Obligations.EoiResult := fun _ => ⟨fun hrun => if_pos hrun, fun hrun => if_neg hrun⟩

/-- The low bits of a word, as a number's remainder. -/
theorem setWidth_eq_ofNat_mod {n m : Nat} (hm : m = 2 ^ n) (data : Word) :
    data.setWidth n = BitVec.ofNat n (data.toNat % m) :=
  BitVec.eq_of_toNat_eq (by simp [hm])

/-- Settles O38: IN_DATA by the session state and by the room in the FIFO. -/
theorem inDataResult : Obligations.InDataResult := by
  intro data s
  refine ⟨fun hrun hroom => ?queued, fun hrun hfull => ?overflow, fun hrun => if_neg hrun⟩
  case queued =>
    rw [← setWidth_eq_ofNat_mod (m := 256) rfl]
    exact (if_pos hrun).trans (if_neg hroom)
  case overflow => exact (if_pos hrun).trans (if_pos hfull)

/-- Settles O39: each write by definition, CFG_BPP by the low three bits of the word. -/
theorem registerWriteResults : Obligations.RegisterWriteResults := by
  intro data s
  refine ⟨rfl, rfl, ?bpp, fun _ _ => rfl⟩
  rw [← setWidth_eq_ofNat_mod (m := 8) rfl]
  rfl

/-! ### The commands of a CTRL write -/

theorem andThen_assoc (o : Result) (f g : State → Result) :
    andThen (andThen o f) g = andThen o fun s => andThen (f s) g := by
  cases o <;> rfl

theorem hostOperations_append (is js : List Instr) (s : State) :
    hostOperations exec (is ++ js) s = andThen (hostOperations exec is s) (hostOperations exec js) := by
  induction is generalizing s with
  | nil => rfl
  | cons i is ih =>
    rw [List.cons_append, hostOperations, hostOperations, andThen_assoc]
    exact congrArg (andThen _) (funext ih)

theorem hostOperations_command {i : Instr} (h : ∀ b, i ≠ .busError b) (s : State) :
    hostOperations exec [i] s = command i s := by
  rw [hostOperations_singleton, hostOperation_of_ne h, command]

/-- A command of a CTRL write, performed where its bit is set. -/
theorem hostOperations_commandIf {i : Instr} (h : ∀ b, i ≠ .busError b) (b : Bool) :
    hostOperations exec (if b then [i] else []) = commandIf b i := by
  funext s
  cases b with
  | false => rfl
  | true => exact hostOperations_command h s

/-- A 32-bit write at offset 0 is a CTRL write (spec/10_state.md R49). -/
theorem accessInstrs_ctrl (s : State) (data : Word) : s.accessInstrs (s.busWrite 0x000 data) = decodeCtrl data := by
  simp [State.accessInstrs, State.busWrite, decodeAccess, HostAccess.misaccess, HostAccess.decoded, AccessWidth.bytes,
    Nat.le_add_right_of_le]

/-- A step that performs a CTRL write performs its commands in order. -/
theorem step_ctrl {s : State} {data : Word} {rest : List BusAccess} (hidle : engineIdle s = true)
    (hq : s.host.queue = s.busWrite 0x000 data :: rest) :
    step s = hostOperations exec (decodeCtrl data) s.popAccess := by
  have hbase : s.cfg.baseAddr ≤ (s.busWrite 0x000 data).addr := Nat.le_add_right _ _
  rw [popAccess_of_queue hq, step_access hidle hq, hostAccess, if_neg (Nat.not_lt_of_le hbase),
    ← accessInstrs_ctrl s data]
  rfl

theorem decodeCtrl_abort {data : Word} (h : data.getLsbD 1 = true) : decodeCtrl data = [.ctrlAbort] := if_pos h

/-- A write that sets none of the four bits is ignored (spec/48_host_interface.md R444, R453). -/
theorem decodeCtrl_ignored {data : Word} (h : data.toNat % 16 = 0) :
    decodeCtrl data = [.ignoredWrite .b4 0x000 data] := by
  have hbit : data.getLsbD 1 = false := by
    have hlow := Nat.testBit_mod_two_pow data.toNat 4 1
    simpa [h, BitVec.getLsbD] using hlow.symm
  rw [decodeCtrl, hbit, if_neg Bool.false_ne_true, if_pos h]

theorem decodeCtrl_commands {data : Word} (habort : data.getLsbD 1 = false) (h : data.toNat % 16 ≠ 0) :
    decodeCtrl data = (if data.getLsbD 0 then [.ctrlStart] else [])
      ++ ((if data.getLsbD 3 then [.ctrlRowAck] else []) ++ if data.getLsbD 2 then [.ctrlEoi] else []) := by
  rw [decodeCtrl, habort, if_neg Bool.false_ne_true, if_neg h, List.append_assoc]

/-- Settles O47: the list of a CTRL write's commands, performed one after another. -/
theorem ctrlCommandsInOrder : Obligations.CtrlCommandsInOrder := by
  intro s data rest hidle hq
  rw [step_ctrl hidle hq]
  refine ⟨fun habort => ?abort, fun habort hset => ?commands, fun hnone => ?ignored⟩
  case abort => rw [decodeCtrl_abort habort, hostOperations_command (i := .ctrlAbort) nofun]
  case commands =>
    rw [decodeCtrl_commands habort hset, hostOperations_append,
      hostOperations_commandIf (i := .ctrlStart) nofun]
    refine congrArg (andThen _) (funext fun t => ?_)
    rw [hostOperations_append, hostOperations_commandIf (i := .ctrlRowAck) nofun,
      hostOperations_commandIf (i := .ctrlEoi) nofun]
  case ignored =>
    rw [decodeCtrl_ignored hnone, hostOperations_command (i := .ignoredWrite _ _ _) nofun]
    exact runEngine_idle hidle

/-! ### The run of the engine -/

/-- Settles O48: a run that answers ends in quiescence, or it began with an idle engine and did nothing. -/
theorem runEngineReachesQuiescence : Obligations.RunEngineReachesQuiescence := by
  intro s t hrun
  obtain hquiet | ⟨hidle, rfl⟩ := runEngine_quiet hrun
  · exact hquiet.idle
  · exact hidle

/-- A run whose first micro-step leaves the engine idle is that micro-step. -/
theorem runEngine_of_one_step {s t : State} (hbusy : engineIdle s = false) (hstep : engineStep exec s = .next t)
    (hidle : engineIdle t = true) : runEngine exec s = .next t := by
  rw [runEngine, runSteps_busy _ hbusy, hstep, andThen_next, runSteps_idle _ hidle]

/-! ### An engine that waits for a byte -/

theorem needsByte_iff (s : State) :
    needsByte s = true ↔ s.eng.needInput = true ∧ s.rd.fifo = [] ∧ s.rd.eoi = false := by
  simp [needsByte, and_assoc]

/-- In RUN the engine has a phase: idle with no row waiting, it waits for a byte (spec/48_host_interface.md R455). -/
theorem State.Inv.needsByte_of_idle {s : State} (hinv : s.Inv) (hidle : engineIdle s = true)
    (hrun : s.ses.state = .run) (hready : s.row.rowReady = false) : needsByte s = true := by
  obtain ⟨hphase, -⟩ := hinv.runRow hrun
  simpa [engineIdle, hrun, hready, hphase] using hidle

/-- Settles O55: with no row waiting the idle engine waits for a byte; NEED_INPUT is never set beside a waiting row. -/
theorem quietMeansWaiting : Obligations.QuietMeansWaiting := by
  intro s hinv hquiet hrun
  refine ⟨fun hready => ?waiting, fun hready => ?held⟩
  case waiting =>
    obtain ⟨hneed, hfifo, heoi⟩ := (needsByte_iff s).mp (hinv.needsByte_of_idle hquiet.idle hrun hready)
    exact ⟨hfifo, by simp [State.needInputFlag, hrun, hneed], heoi⟩
  case held =>
    have hneed : s.eng.needInput = false := by
      by_contra hset
      obtain ⟨-, hnone, -⟩ := hquiet.needOk (by simpa using hset)
      exact absurd (hnone.symm.trans hready) nofun
    simp [State.needInputFlag, hneed]

/-- `s` after EOI in RUN (spec/48_host_interface.md R446). -/
def State.inputOver (s : State) : State :=
  { s with rd := { s.rd with eoi := true }, host := { s.host with resp := .written } }

/-- EOI given to an engine that waits for a byte: the run that follows is one micro-step, and it raises TRUNCATED. -/
theorem command_eoi_of_waiting {s : State} (hquiet : s.Quiet) (hneed : s.eng.needInput = true) :
    command .ctrlEoi s = .next (raise .truncated s.inputOver) := by
  obtain ⟨hrun, -, hbyte, hbits, hawait⟩ := hquiet.needOk hneed
  obtain ⟨-, hfifo, -⟩ := (needsByte_iff s).mp hbyte
  have hbusy : engineIdle s.inputOver = false := busy_of_input hquiet hneed (.inl rfl)
  have hstep : engineStep exec s.inputOver = .next (raise .truncated s.inputOver) :=
    engineStep_exhausted ⟨hbits, hfifo, rfl⟩ hawait
  obtain ⟨heoi, -⟩ := eoiResult s
  rw [command, heoi hrun, andThen_next]
  exact runEngine_of_one_step hbusy hstep (raise_quiet _ _).idle

/-- Settles O54: the write is EOI alone, and the engine waits for a byte at a byte boundary. -/
theorem endOfInputWhileWaiting : Obligations.EndOfInputWhileWaiting := by
  intro s rest hinv hquiet hrun hready hq
  obtain ⟨hneed, -⟩ := (needsByte_iff s).mp (hinv.needsByte_of_idle hquiet.idle hrun hready)
  obtain ⟨-, -, -, hbits, -⟩ := hquiet.needOk hneed
  have hstep : step s = .next (raise .truncated s.popAccess.inputOver) := by
    rw [step_ctrl hquiet.idle hq, show decodeCtrl 0x4#32 = [.ctrlEoi] from rfl, 
      hostOperations_command (i := .ctrlEoi) nofun]
    exact command_eoi_of_waiting (hquiet.withHost _) hneed
  refine ⟨_, hstep, rfl, rfl, rfl, ?bits, rfl, rfl, rfl, rfl⟩
  show (if s.rd.bytesTaken = 0 then 0#4 else BitVec.ofNat 4 (8 - s.rd.nbits)) = _
  rw [hbits]

end Sys2Proof.Machine
end

section
/-! The error entry (spec/60_exceptions.md R503, R505): ERROR is entered by `raise` only, and outside RUN the host's
accesses other than START and ABORT leave the block as it is. -/

namespace Sys2Proof.Machine

/-! ### Accesses outside RUN -/

/-- From `s` to `t` only the CFG registers and the host's fields have changed. -/
def RegsHostOnly (s t : State) : Prop := t = { s with regs := t.regs, host := t.host }

theorem RegsHostOnly.trans {s t u : State} (h : RegsHostOnly s t) (h' : RegsHostOnly t u) : RegsHostOnly s u := by
  rw [RegsHostOnly, h', h]

theorem HostOnly.regsHostOnly {s t : State} (h : HostOnly s t) : RegsHostOnly s t := by
  rw [h.1]
  rfl

/-- Outside RUN the host's instructions other than START and ABORT write nothing of the block but the CFG registers
(spec/48_host_interface.md R445 to R450). -/
theorem exec_host_outside_run {i : Instr} {s t : State} (hi : HostInstr i) (hstart : i ≠ .ctrlStart)
    (habort : i ≠ .ctrlAbort) (hrun : s.ses.state ≠ .run) (hex : exec i s = .next t) : RegsHostOnly s t := by
  cases hi with
  | abort => exact absurd rfl habort
  | start => exact absurd rfl hstart
  | rowAck =>
    have hignored : exec .ctrlRowAck s = .next (respond .written s) := if_neg fun h => hrun h.1
    rw [hignored] at hex
    cases hex
    rfl
  | eoi =>
    rw [(eoiResult s).2 hrun] at hex
    cases hex
    rfl
  | inData data =>
    rw [(inDataResult data s).2.2 hrun] at hex
    cases hex
    rfl
  | rowRead w offset => exact (execRowRead_hostOnly hex).regsHostOnly
  | busError a => exact (execBusError_hostOnly hex).regsHostOnly
  | cfgWidth data | cfgHeight data | cfgBpp data | regRead offset | ignoredWrite w offset data =>
    cases hex
    rfl

/-- Settles O53: outside RUN no instruction of such an access leads into RUN, so that the engine never runs. -/
theorem outsideRunOnlyStartAbort : Obligations.OutsideRunOnlyStartAbort := by
  intro s t a rest hrun hqueue hstart habort hstep
  have hses : ∀ {u : State}, RegsHostOnly s u → u.ses.state ≠ .run := fun hu => by rwa [hu]
  rw [step_access (engineIdle_of_not_run hrun) hqueue, hostAccess] at hstep
  split at hstep
  · exact (undecoded_hostOnly hstep).regsHostOnly
  · have hpop : RegsHostOnly s { s with host := { s.host with queue := rest } } := rfl
    refine hostOperations_induct (P := RegsHostOnly s) ?micro (fun i hi u v hu hex => ?host) hpop hstep
    case micro => exact fun u v hu hbusy _ => absurd (run_of_busy hbusy).1 (hses hu)
    case host =>
      exact hu.trans (exec_host_outside_run (decodeAccess_host hi) (ne_of_mem_of_not_mem hi hstart)
        (ne_of_mem_of_not_mem hi habort) (hses hu) hex)

/-! ### The state `raise` leaves -/

/-- What `raise` leaves (spec/60_exceptions.md R503): the record of a cause, no row waiting, no input, no
continuation. -/
structure State.Raised (t : State) : Prop where
  record : ∃ c : Cause, t.err = { kind := c.kind, cause := c.code, bits := t.rd.bitsUsed }
  ready : t.row.rowReady = false
  pending : t.row.pending = none
  fifo : t.rd.fifo = []
  phase : t.eng.phase = .pNone
  need : t.eng.needInput = false

theorem raise_raised (c : Cause) (s : State) : (raise c s).Raised := ⟨⟨c, rfl⟩, rfl, rfl, rfl, rfl, rfl⟩

theorem State.Raised.withHost {s : State} (h : s.Raised) (p : HostPort) : State.Raised { s with host := p } :=
  { h with }

theorem State.Raised.of_regsHostOnly {s t : State} (h : s.Raised) (ht : RegsHostOnly s t) : t.Raised := by
  rw [ht]
  exact { h with }

/-- If `t` is in ERROR where `s` was not, `raise` was the last thing done on the way. -/
def ErrorRaised (s t : State) : Prop := t.ses.state = .error → s.ses.state = .error ∨ t.Raised

namespace ErrorRaised

theorem of_ses {s t : State} (h : t.ses = s.ses) : ErrorRaised s t := fun ht => .inl (h ▸ ht)

theorem raise (c : Cause) (s u : State) : ErrorRaised s (raise c u) := fun _ => .inr (raise_raised c u)

/-- The way from `s`, where `t` is `s` but for fields outside the session. -/
theorem after {s t u : State} (h : ErrorRaised t u) (hses : t.ses = s.ses) : ErrorRaised s u :=
  fun hu => hses ▸ h hu

theorem stopped {u t : State} (h : Stopped u t) : ErrorRaised u t := by
  obtain ⟨c, rfl⟩ | rfl := h
  · exact raise c u u
  · exact of_ses rfl

end ErrorRaised

/-! ### Reads -/

/-- A read that completes keeps the session; one that stops enters ERROR by `raise` only. -/
def Read.ErrorRaised {α : Type} (s : State) : Read α → Prop
  | .done _ t => t.ses = s.ses
  | .stop t => Machine.ErrorRaised s t

theorem readField_errorRaised (n : Nat) (s : State) : (readField n s).ErrorRaised s := by
  cases hread : readField n s with
  | done v t =>
    obtain ⟨-, r, rfl, -⟩ := readFieldLoop_done hread
    rfl
  | stop t =>
    obtain ⟨r, ht, -⟩ := readField_stopped hread
    exact (ErrorRaised.stopped ht).after rfl

theorem decodeSymbol_errorRaised (tbl : HuffTable) (s : State) : (decodeSymbol tbl s).ErrorRaised s := by
  cases hread : decodeSymbol tbl s with
  | done v t =>
    obtain ⟨-, r, rfl, -⟩ := decodeLoop_done hread
    rfl
  | stop t =>
    obtain ⟨r, tr, ht, -⟩ := decodeLoop_stopped hread
    exact (ErrorRaised.stopped ht).after rfl

/-! ### The operations of the stream -/

theorem blockEnd_errorRaised (s : State) : ErrorRaised s (blockEnd s) := by
  unfold blockEnd endOfStream
  split
  · split
    · exact .raise _ s s
    · exact nofun
  · exact .of_ses rfl

theorem copyByte_errorRaised (s : State) : ErrorRaised s (copyByte s) := by
  unfold copyByte
  split <;> exact .of_ses rfl

theorem filterByte_errorRaised (t : FilterType) (p : Byte → Byte → Byte → Byte) (s : State) :
    ErrorRaised s (filterByte t p s) := by
  unfold filterByte
  split
  · exact .of_ses rfl
  · split <;> exact .of_ses rfl

theorem buildBlockTables_errorRaised (s : State) : ErrorRaised s (buildBlockTables s) := by
  unfold buildBlockTables
  dsimp only
  split
  · exact .raise _ s s
  · split
    · split
      · exact .of_ses rfl
      · exact .raise _ s _
    · exact .raise _ s _

theorem appendLengths_errorRaised (n : Nat) (v : BitVec 4) (s : State) : ErrorRaised s (appendLengths n v s) := by
  unfold appendLengths
  dsimp only
  split
  · exact .of_ses rfl
  · exact (buildBlockTables_errorRaised _).after rfl

theorem repeatLengths_errorRaised (n : Nat) (v : BitVec 4) (s : State) : ErrorRaised s (repeatLengths n v s) := by
  unfold repeatLengths
  split
  · exact .raise _ s s
  · exact appendLengths_errorRaised n v s

theorem checkDistance_errorRaised (s : State) : ErrorRaised s (checkDistance s) := by
  unfold checkDistance
  split
  · exact .raise _ s s
  · exact .of_ses rfl

theorem repeatSymbol_errorRaised (sym : BitVec 9) (base extra : Nat) (v : BitVec 4) (s : State) :
    ErrorRaised s (repeatSymbol sym base extra v s) := by
  have hread := readField_errorRaised extra { s with eng := { s.eng with phase := .pDynExtra, sym := sym } }
  unfold repeatSymbol
  split <;> rename_i heq <;> rw [heq] at hread
  · exact hread.after rfl
  · exact (repeatLengths_errorRaised _ _ _).after hread

theorem lengthSymbol_errorRaised (sym : BitVec 9) (base extra : Nat) (s : State) :
    ErrorRaised s (lengthSymbol sym base extra s) := by
  have hread := readField_errorRaised extra { s with eng := { s.eng with phase := .pLenExtra, sym := sym } }
  unfold lengthSymbol
  split <;> rename_i heq <;> rw [heq] at hread
  · exact hread.after rfl
  · exact .of_ses hread

theorem distanceSymbol_errorRaised (sym : BitVec 9) (base extra : Nat) (s : State) :
    ErrorRaised s (distanceSymbol sym base extra s) := by
  have hread := readField_errorRaised extra { s with eng := { s.eng with phase := .pDistExtra, sym := sym } }
  unfold distanceSymbol
  split <;> rename_i heq <;> rw [heq] at hread
  · exact hread.after rfl
  · exact (checkDistance_errorRaised _).after hread

/-! ### The elements of the stream -/

/-- An outcome of an instruction run in `s`: the state it answers is in ERROR by `raise` only. -/
def ResultErrorRaised (s : State) (o : Result) : Prop := ∀ t, o = .next t → ErrorRaised s t

theorem resultErrorRaised_next {s t : State} (h : ErrorRaised s t) : ResultErrorRaised s (.next t) := by
  rintro u ⟨⟩
  exact h

theorem exec_cll_errorRaised (length : BitVec 3) (s : State) : ResultErrorRaised s (exec (.cll length) s) := by
  show ResultErrorRaised s (execCll length s)
  unfold execCll
  dsimp only
  split_ifs
  · exact resultErrorRaised_next (.of_ses rfl)
  · exact resultErrorRaised_next (.of_ses rfl)
  · exact resultErrorRaised_next (.raise _ s _)

theorem exec_decodeClen_errorRaised {v : Nat} {i : Instr} (hi : decodeClen v = some i) (s : State) :
    ResultErrorRaised s (exec i s) := by
  unfold decodeClen at hi
  split_ifs at hi <;> cases hi
  · exact resultErrorRaised_next (appendLengths_errorRaised 1 _ s)
  · show ResultErrorRaised s (execClRepeatPrev s)
    unfold execClRepeatPrev
    split
    · exact resultErrorRaised_next (.raise _ s s)
    · exact resultErrorRaised_next (repeatSymbol_errorRaised _ _ _ _ s)
  · exact resultErrorRaised_next (repeatSymbol_errorRaised _ _ _ _ s)
  · exact resultErrorRaised_next (repeatSymbol_errorRaised _ _ _ _ s)

theorem exec_decodeLitlen_errorRaised {v : Nat} {i : Instr} (hi : decodeLitlen v = some i) (s : State) :
    ResultErrorRaised s (exec i s) := by
  obtain ⟨-, rfl⟩ | ⟨-, rfl⟩ | ⟨r, hr, rfl, -⟩ | rfl | rfl := decodeLitlen_cases hi
  · exact resultErrorRaised_next (.of_ses rfl)
  · exact resultErrorRaised_next (blockEnd_errorRaised s)
  · rw [exec_lengthRow r hr]
    exact resultErrorRaised_next (lengthSymbol_errorRaised _ _ _ s)
  · exact resultErrorRaised_next (.raise _ s s)
  · exact resultErrorRaised_next (.raise _ s s)

theorem exec_decodeDist_errorRaised {v : Nat} {i : Instr} (hi : distRows[v]? = some i) (s : State) :
    ResultErrorRaised s (exec i s) := by
  obtain ⟨r, hr, rfl, -⟩ | rfl | rfl := decodeDist_cases hi
  · rw [exec_distanceRow r hr]
    exact resultErrorRaised_next (distanceSymbol_errorRaised _ _ _ s)
  · exact resultErrorRaised_next (.raise _ s s)
  · exact resultErrorRaised_next (.raise _ s s)

theorem exec_filterInstr_errorRaised (f : FilterType) (s : State) :
    ResultErrorRaised s (exec (filterInstr f) s) := by
  rw [exec_filterInstr]
  exact resultErrorRaised_next (filterByte_errorRaised _ _ s)

theorem exec_decodeFilter_errorRaised (v : Nat) (s : State) : ResultErrorRaised s (exec (decodeFilter v) s) := by
  unfold decodeFilter
  split_ifs
  case neg => exact resultErrorRaised_next (.raise _ s s)
  all_goals exact resultErrorRaised_next (filterByte_errorRaised _ _ s)

/-- Every element of every format enters ERROR by `raise` only. -/
theorem exec_decodeRow_errorRaised {f : Format} {v : Nat} {i : Instr} (hi : decodeRow f v = some i) (s : State) :
    ResultErrorRaised s (exec i s) := by
  cases f
  case clenSymbol => exact exec_decodeClen_errorRaised hi s
  case litlenSymbol => exact exec_decodeLitlen_errorRaised hi s
  case distSymbol => exact exec_decodeDist_errorRaised hi s
  all_goals cases hi
  case zlibHeader =>
    unfold decodeZlib
    split_ifs
    case neg => exact resultErrorRaised_next (.of_ses rfl)
    all_goals exact resultErrorRaised_next (.raise _ s s)
  case blockHeader =>
    unfold decodeBlock
    dsimp only
    split_ifs
    case neg => exact resultErrorRaised_next (.raise _ s _)
    all_goals exact resultErrorRaised_next (.of_ses rfl)
  case storedHeader =>
    unfold decodeStored
    split_ifs
    · exact resultErrorRaised_next (.of_ses rfl)
    · exact resultErrorRaised_next (.raise _ s s)
  case storedPayload => exact resultErrorRaised_next (.of_ses rfl)
  case dynHeader =>
    unfold decodeDyn
    split_ifs
    · exact resultErrorRaised_next (.of_ses rfl)
    · exact resultErrorRaised_next (.raise _ s _)
  case cllField => exact exec_cll_errorRaised _ s
  case rowFilter => exact exec_decodeFilter_errorRaised _ s

/-! ### The micro-step -/

/-- What the fetch leads to is in ERROR by `raise` only. -/
def Fetch.ErrorRaised (s : State) : Fetch → Prop
  | .instr i u => u.ses = s.ses ∧ ResultErrorRaised u (exec i u)
  | .internal t => Machine.ErrorRaised s t
  | .noRow _ _ => True

theorem fetchDecoded_errorRaised (f : Format) (v : Nat) {s u : State} (h : u.ses = s.ses) :
    (fetchDecoded f v u).ErrorRaised s := by
  unfold fetchDecoded
  split
  · rename_i hdec
    exact ⟨h, exec_decodeRow_errorRaised (decodeField_ok hdec) u⟩
  · trivial

theorem fetchRead_errorRaised (f : Format) {s : State} {r : Read Nat} (h : r.ErrorRaised s) :
    (fetchRead f r).ErrorRaised s := by
  cases r with
  | done v t => exact fetchDecoded_errorRaised f v h
  | stop t => exact h

theorem fetchZlib_errorRaised (s : State) : (fetchZlib s).ErrorRaised s := by
  have hread := readField_errorRaised 16 s
  unfold fetchZlib
  split <;> rename_i heq <;> rw [heq] at hread
  · exact hread
  · exact fetchDecoded_errorRaised _ _ hread

theorem fetchPhase_errorRaised (s : State) : (fetchPhase s).ErrorRaised s := by
  unfold fetchPhase
  split
  case h_1 => exact ErrorRaised.of_ses rfl
  case h_2 => exact fetchZlib_errorRaised s
  case h_5 =>
    split
    · exact blockEnd_errorRaised s
    · exact fetchRead_errorRaised _ (readField_errorRaised _ s)
  case h_8 | h_10 | h_12 => exact fetchRead_errorRaised _ (decodeSymbol_errorRaised _ s)
  case h_9 | h_11 | h_13 => exact fetchDecoded_errorRaised _ _ rfl
  case h_14 => exact copyByte_errorRaised s
  all_goals exact fetchRead_errorRaised _ (readField_errorRaised _ s)

theorem fetchRow_errorRaised (v : Byte) (s : State) : (fetchRow v s).ErrorRaised s := by
  unfold fetchRow
  split
  · exact fetchDecoded_errorRaised _ _ rfl
  · exact ⟨rfl, exec_filterInstr_errorRaised _ s⟩

theorem engineStep_errorRaised {s t : State} (h : engineStep exec s = .next t) : ErrorRaised s t := by
  have hfetch : (fetch s).ErrorRaised { s with eng := { s.eng with needInput := false } } := by
    unfold fetch
    dsimp only
    split
    · exact fetchRow_errorRaised _ _
    · exact fetchPhase_errorRaised _
  refine ErrorRaised.after (t := { s with eng := { s.eng with needInput := false } }) ?_ rfl
  obtain ⟨i, u, hi, hex⟩ | hi := engineStep_next_iff.mp h <;> rw [hi] at hfetch
  · obtain ⟨hses, hresult⟩ := hfetch
    exact (hresult t hex).after hses
  · exact hfetch

/-! ### The host's instructions -/

theorem start_raised (s : State) : (start s).ses.state = .error → (start s).Raised := by
  unfold start
  split
  · exact fun _ => raise_raised _ _
  · exact nofun

/-- The host's instructions other than START and ABORT enter ERROR by IN_OVERFLOW only. -/
theorem exec_host_errorRaised {i : Instr} {s t : State} (hi : HostInstr i) (hstart : i ≠ .ctrlStart)
    (habort : i ≠ .ctrlAbort) (hex : exec i s = .next t) : ErrorRaised s t := by
  by_cases hack : i = .ctrlRowAck
  · subst hack
    have hex : execCtrlRowAck s = .next t := hex
    unfold execCtrlRowAck at hex
    split at hex <;> cases hex <;> exact .of_ses rfl
  · obtain ht | ht := exec_host_cases hi hstart habort hack hex <;> rw [ht]
    · exact .of_ses rfl
    · exact fun _ => .inr ((raise_raised _ s).withHost _)

/-- After an instruction of the host ERROR is as `raise` leaves it, if it was before. -/
theorem exec_host_raised {i : Instr} {s t : State} (hi : HostInstr i) (h : s.ses.state = .error → s.Raised)
    (hex : exec i s = .next t) : t.ses.state = .error → t.Raised := by
  by_cases hstart : i = .ctrlStart
  · subst hstart
    cases hex
    exact fun ht => (start_raised s ht).withHost _
  by_cases habort : i = .ctrlAbort
  · subst habort
    cases hex
    exact nofun
  intro ht
  obtain hs | hraised := exec_host_errorRaised hi hstart habort hex ht
  · exact (h hs).of_regsHostOnly (exec_host_outside_run hi hstart habort (by simp [hs]) hex)
  · exact hraised

/-- Settles O7: `raise` by definition; the way into ERROR by what each micro-step and each instruction of the host
can have raised. -/
theorem raiseEntersError : Obligations.RaiseEntersError := by
  refine ⟨fun c s => ⟨rfl, rfl⟩, fun s t hstep hs ht => ?_⟩
  have hraised : t.Raised := by
    refine step_induct (P := fun u => u.ses.state = .error → u.Raised) ?micro (fun i u v hi => exec_host_raised hi)
      (fun u p hu herr => (hu herr).withHost p) (fun herr => absurd herr hs) hstep ht
    case micro =>
      intro u v _ hbusy hmicro hv
      obtain ⟨hrun, -⟩ := run_of_busy hbusy
      exact (engineStep_errorRaised hmicro hv).resolve_left (by simp [hrun])
  obtain ⟨hrecord, hready, hpending, hfifo, hphase, hneed⟩ := hraised
  exact ⟨hrecord, hready, hpending, hfifo, hphase, hneed⟩

end Sys2Proof.Machine
end

section
/-! The decoder and the encoder against each other (spec/30_encoding.md R122 to R139): the row each number of a stream
format has, the numbers that have one, and the accesses of the register map. -/

namespace Sys2Proof.Machine

/-! ### The row of a number -/

/-- `i` is the row of format `f` at the number `v` (spec/30_encoding.md R139), in a block whose `ROW_WIN_SIZE` is
`rowWin`: it is well formed, and it is encoded as that number. -/
structure IsRow (rowWin : Nat) (f : Format) (v : Nat) (i : Instr) : Prop where
  wf : i.wf rowWin = true
  code : encode i = .field f v

section
variable {rowWin : Nat}

theorem IsRow.of_eq {f : Format} {u v : Nat} {i : Instr} (h : IsRow rowWin f u i) (huv : u = v) : IsRow rowWin f v i :=
  huv ▸ h

/-- The checks of the decoder, in the order of spec/41_zlib_blocks.md R226, are those `wf` asks for. -/
theorem decodeZlib_isRow (cmf flg : Byte) :
    IsRow rowWin .zlibHeader (cmf.toNat * 256 + flg.toNat) (decodeZlib cmf flg) := by
  unfold decodeZlib
  split_ifs with hcm hcinfo hcheck hfdict
  · exact ⟨decide_eq_true hcm, rfl⟩
  · exact ⟨by simp [Instr.wf, not_ne_iff.mp hcm, hcinfo], rfl⟩
  · exact ⟨by simp [Instr.wf, not_ne_iff.mp hcm, Nat.not_lt.mp hcinfo, hcheck], rfl⟩
  · exact ⟨by simp [Instr.wf, not_ne_iff.mp hcm, Nat.not_lt.mp hcinfo, not_ne_iff.mp hcheck, hfdict], rfl⟩
  · exact ⟨by simp [Instr.wf, not_ne_iff.mp hcm, Nat.not_lt.mp hcinfo, not_ne_iff.mp hcheck, hfdict], rfl⟩

theorem decodeBlock_isRow {v : Nat} (hv : v < 8) : IsRow rowWin .blockHeader v (decodeBlock v) := by
  interval_cases v <;> exact ⟨rfl, rfl⟩

theorem decodeStored_isRow (len nlen : BitVec 16) :
    IsRow rowWin .storedHeader (len.toNat + 65536 * nlen.toNat) (decodeStored len nlen) := by
  unfold decodeStored
  split_ifs with hnlen <;> exact ⟨decide_eq_true hnlen, rfl⟩

theorem decodeDyn_isRow (hlit hdist : BitVec 5) (hclen : BitVec 4) :
    IsRow rowWin .dynHeader (hlit.toNat + 32 * hdist.toNat + 1024 * hclen.toNat) (decodeDyn hlit hdist hclen) := by
  unfold decodeDyn
  split_ifs with hcounts
  · exact ⟨by simpa [Instr.wf] using hcounts, rfl⟩
  · exact ⟨by simpa [Instr.wf, imp_iff_not_or] using hcounts, rfl⟩

theorem decodeClen_isRow {v : Nat} {i : Instr} (h : decodeClen v = some i) : IsRow rowWin .clenSymbol v i := by
  unfold decodeClen at h
  split_ifs at h with hlen
  case pos =>
    cases h
    exact ⟨rfl, congrArg (Code.field _) (Nat.mod_eq_of_lt hlen)⟩
  all_goals
    cases h
    subst v
    exact ⟨rfl, rfl⟩

theorem litlenTail_wf : litlenTail.all (Instr.wf rowWin) = true := rfl

theorem litlenTail_encode : ∀ p ∈ litlenTail.zipIdx 257, encode p.1 = .field .litlenSymbol p.2 := by decide

theorem decodeLitlen_isRow {v : Nat} {i : Instr} (h : decodeLitlen v = some i) : IsRow rowWin .litlenSymbol v i := by
  unfold decodeLitlen at h
  split_ifs at h with hlit heob
  · cases h
    exact ⟨rfl, congrArg (Code.field _) (Nat.mod_eq_of_lt hlit)⟩
  · cases h
    subst v
    exact ⟨rfl, rfl⟩
  · have hmem : (i, v) ∈ litlenTail.zipIdx 257 := by
      rw [List.mk_mem_zipIdx_iff_le_and_getElem?_sub]
      exact ⟨by omega, h⟩
    exact ⟨List.all_eq_true.mp litlenTail_wf i (List.mem_of_getElem? h), litlenTail_encode _ hmem⟩

theorem distRows_wf : distRows.all (Instr.wf rowWin) = true := rfl

theorem distRows_encode : ∀ p ∈ distRows.zipIdx, encode p.1 = .field .distSymbol p.2 := by decide

theorem distRows_isRow {v : Nat} {i : Instr} (h : distRows[v]? = some i) : IsRow rowWin .distSymbol v i :=
  ⟨List.all_eq_true.mp distRows_wf i (List.mem_of_getElem? h),
    distRows_encode (i, v) (List.mk_mem_zipIdx_iff_getElem?.mpr h)⟩

theorem decodeFilter_isRow {v : Nat} (hv : v < 256) : IsRow rowWin .rowFilter v (decodeFilter v) := by
  unfold decodeFilter
  split_ifs
  case neg =>
    have hval : (BitVec.ofNat 8 v).toNat = v := Nat.mod_eq_of_lt hv
    exact ⟨decide_eq_true (by omega), congrArg (Code.field _) hval⟩
  all_goals
    subst v
    exact ⟨rfl, rfl⟩

/-- The row a number decodes to is well formed and is encoded as the number, format by format. -/
theorem decodeRow_isRow {f : Format} {v : Nat} {i : Instr} (hv : v < 2 ^ f.bits) (h : decodeRow f v = some i) :
    IsRow rowWin f v i := by
  cases f
  case blockHeader =>
    cases h
    exact decodeBlock_isRow hv
  case zlibHeader =>
    cases h
    refine (decodeZlib_isRow _ _).of_eq ?_
    simp only [Format.bits, BitVec.toNat_ofNat] at hv ⊢
    omega
  case storedHeader =>
    cases h
    refine (decodeStored_isRow _ _).of_eq ?_
    simp only [Format.bits, BitVec.toNat_ofNat] at hv ⊢
    omega
  case dynHeader =>
    cases h
    refine (decodeDyn_isRow _ _ _).of_eq ?_
    simp only [Format.bits, BitVec.toNat_ofNat] at hv ⊢
    omega
  case clenSymbol => exact decodeClen_isRow h
  case litlenSymbol => exact decodeLitlen_isRow h
  case distSymbol => exact distRows_isRow h
  case rowFilter =>
    cases h
    exact decodeFilter_isRow hv
  case storedPayload | cllField =>
    cases h
    exact ⟨rfl, congrArg (Code.field _) (Nat.mod_eq_of_lt hv)⟩

end

/-! ### The numbers that have a row -/

theorem lt_of_decodeClen {v : Nat} {i : Instr} (h : decodeClen v = some i) : v < 19 := by
  unfold decodeClen at h
  split_ifs at h
  all_goals omega

theorem lt_of_decodeLitlen {v : Nat} {i : Instr} (h : decodeLitlen v = some i) : v < 288 := by
  unfold decodeLitlen at h
  split_ifs at h
  · omega
  · omega
  · have hlen : v - 257 < 31 := (List.getElem?_eq_some_iff.mp h).1
    omega

theorem decodeField_lt {f : Format} {v : Nat} {i : Instr} (h : decodeField f v = .ok i) : v < 2 ^ f.bits := by
  unfold decodeField at h
  split at h
  · assumption
  · cases h

/-- The numbers of a format that decode are the first `rowCount` ones (spec/30_encoding.md R139). -/
theorem decodeField_ok_iff {f : Format} {v : Nat} : (∃ i, decodeField f v = .ok i) ↔ v < rowCount f := by
  refine ⟨?_, decodeField_of_lt⟩
  rintro ⟨i, h⟩
  cases f
  case clenSymbol => exact lt_of_decodeClen (decodeField_ok h)
  case litlenSymbol => exact lt_of_decodeLitlen (decodeField_ok h)
  all_goals exact decodeField_lt h

theorem lt_rowCount_iff {f : Format} {v : Nat} (hv : v < 2 ^ f.bits) :
    v < rowCount f ↔ ¬ (f = .clenSymbol ∧ 19 ≤ v) ∧ ¬ (f = .litlenSymbol ∧ 288 ≤ v) := by
  cases f
  case clenSymbol | litlenSymbol => simp [rowCount]
  all_goals simpa [rowCount] using hv

/-- Settles O3: the numbers with a row are the first `rowCount` ones, and the row of each is well formed and encoded as
it. -/
theorem everyValueHasOneRow : Obligations.EveryValueHasOneRow := by
  intro f v hv
  refine ⟨decodeField_ok_iff.trans (lt_rowCount_iff hv), fun rowWin i h => ?_⟩
  obtain ⟨hwf, hcode⟩ := decodeRow_isRow (rowWin := rowWin) hv (decodeField_ok h)
  exact ⟨hwf, hcode⟩

end Sys2Proof.Machine
end

section
/-! Decoding what was encoded (spec/30_encoding.md R122 to R139): the fields of a header are taken apart as they were
put together, a well-formed row passes the checks of its format, and a well-formed access those of the register map. -/

namespace Sys2Proof.Machine

/-! ### Fields taken apart -/

theorem decodeField_of_row {f : Format} {v : Nat} {i : Instr} (hv : v < 2 ^ f.bits) (h : decodeRow f v = some i) :
    decodeField f v = .ok i := by
  rw [decodeField, if_pos hv, h]

theorem decodeField_storedHeader (len nlen : BitVec 16) :
    decodeField .storedHeader (len.toNat + 65536 * nlen.toNat) = .ok (decodeStored len nlen) := by
  have hlen : BitVec.ofNat 16 (len.toNat + 65536 * nlen.toNat) = len := by bv_omega
  have hnlen : BitVec.ofNat 16 ((len.toNat + 65536 * nlen.toNat) / 65536) = nlen := by bv_omega
  refine decodeField_of_row (Laws.EncodingFits.storedHdr len nlen) ?_
  rw [decodeRow, hlen, hnlen]

theorem decodeField_dynHeader (hlit hdist : BitVec 5) (hclen : BitVec 4) :
    decodeField .dynHeader (hlit.toNat + 32 * hdist.toNat + 1024 * hclen.toNat) = .ok (decodeDyn hlit hdist hclen) := by
  have hlit' : BitVec.ofNat 5 (hlit.toNat + 32 * hdist.toNat + 1024 * hclen.toNat) = hlit := by bv_omega
  have hdist' : BitVec.ofNat 5 ((hlit.toNat + 32 * hdist.toNat + 1024 * hclen.toNat) / 32) = hdist := by bv_omega
  have hclen' : BitVec.ofNat 4 ((hlit.toNat + 32 * hdist.toNat + 1024 * hclen.toNat) / 1024) = hclen := by bv_omega
  refine decodeField_of_row (Laws.EncodingFits.dynHdr hlit hdist hclen) ?_
  rw [decodeRow, hlit', hdist', hclen']

theorem decodeField_storedPayload (v : Byte) : decodeField .storedPayload v.toNat = .ok (.storedByte v) :=
  decodeField_of_row (Laws.EncodingFits.storedByte v) (by rw [decodeRow, BitVec.ofNat_toNat, BitVec.setWidth_eq])

theorem decodeField_cllField (length : BitVec 3) : decodeField .cllField length.toNat = .ok (.cll length) :=
  decodeField_of_row (Laws.EncodingFits.cll length) (by rw [decodeRow, BitVec.ofNat_toNat, BitVec.setWidth_eq])

theorem decodeField_clLen (length : BitVec 4) : decodeField .clenSymbol length.toNat = .ok (.clLen length) := by
  refine decodeField_of_row (Laws.EncodingFits.clLen length) ?_
  rw [decodeRow, decodeClen, if_pos length.isLt, BitVec.ofNat_toNat, BitVec.setWidth_eq]

theorem decodeField_lit (v : Byte) : decodeField .litlenSymbol v.toNat = .ok (.lit v) := by
  refine decodeField_of_row (Laws.EncodingFits.lit v) ?_
  rw [decodeRow, decodeLitlen, if_pos v.isLt, BitVec.ofNat_toNat, BitVec.setWidth_eq]

theorem decodeFilter_invalid {v : Byte} (h : 5 ≤ v.toNat) : decodeFilter v.toNat = .filtInvalid v := by
  have hbyte : BitVec.ofNat 8 v.toNat = v := by rw [BitVec.ofNat_toNat, BitVec.setWidth_eq]
  unfold decodeFilter
  split_ifs
  case neg => rw [hbyte]
  all_goals omega

theorem decodeField_filtInvalid {v : Byte} (h : 5 ≤ v.toNat) :
    decodeField .rowFilter v.toNat = .ok (.filtInvalid v) :=
  decodeField_of_row (Laws.EncodingFits.filtInvalid v) (congrArg some (decodeFilter_invalid h))

/-! ### Checks passed -/

section
variable {rowWin : Nat} {cmf flg : Byte} {len nlen : BitVec 16} {hlit hdist : BitVec 5} {hclen : BitVec 4}

theorem decodeZlib_badCm (h : (Instr.zlibHdrBadCm cmf flg).wf rowWin = true) :
    decodeZlib cmf flg = .zlibHdrBadCm cmf flg := if_pos (of_decide_eq_true h)

theorem decodeZlib_badCinfo (h : (Instr.zlibHdrBadCinfo cmf flg).wf rowWin = true) :
    decodeZlib cmf flg = .zlibHdrBadCinfo cmf flg := by
  simp only [Instr.wf, Bool.and_eq_true, decide_eq_true_eq] at h
  obtain ⟨hcm, hcinfo⟩ := h
  simp [decodeZlib, hcm, hcinfo]

theorem decodeZlib_badFcheck (h : (Instr.zlibHdrBadFcheck cmf flg).wf rowWin = true) :
    decodeZlib cmf flg = .zlibHdrBadFcheck cmf flg := by
  simp only [Instr.wf, Bool.and_eq_true, decide_eq_true_eq, and_assoc] at h
  obtain ⟨hcm, hcinfo, hcheck⟩ := h
  simp [decodeZlib, hcm, hcinfo.not_gt, hcheck]

theorem decodeZlib_fdict (h : (Instr.zlibHdrFdict cmf flg).wf rowWin = true) :
    decodeZlib cmf flg = .zlibHdrFdict cmf flg := by
  simp only [Instr.wf, Bool.and_eq_true, decide_eq_true_eq, and_assoc] at h
  obtain ⟨hcm, hcinfo, hcheck, hfdict⟩ := h
  simp [decodeZlib, hcm, hcinfo.not_gt, hcheck, hfdict]

theorem decodeZlib_valid (h : (Instr.zlibHdr cmf flg).wf rowWin = true) :
    decodeZlib cmf flg = .zlibHdr cmf flg := by
  simp only [Instr.wf, Bool.and_eq_true, Bool.not_eq_true', decide_eq_true_eq, and_assoc] at h
  obtain ⟨hcm, hcinfo, hcheck, hfdict⟩ := h
  simp [decodeZlib, hcm, hcinfo.not_gt, hcheck, hfdict]

theorem decodeStored_valid (h : (Instr.storedHdr len nlen).wf rowWin = true) :
    decodeStored len nlen = .storedHdr len nlen := if_pos (of_decide_eq_true h)

theorem decodeStored_badNlen (h : (Instr.storedHdrBadNlen len nlen).wf rowWin = true) :
    decodeStored len nlen = .storedHdrBadNlen len nlen := if_neg (of_decide_eq_true h)

theorem decodeDyn_valid (h : (Instr.dynHdr hlit hdist hclen).wf rowWin = true) :
    decodeDyn hlit hdist hclen = .dynHdr hlit hdist hclen := if_pos (by simpa [Instr.wf] using h)

theorem decodeDyn_badCounts (h : (Instr.dynHdrBadCounts hlit hdist hclen).wf rowWin = true) :
    decodeDyn hlit hdist hclen = .dynHdrBadCounts hlit hdist hclen :=
  if_neg (by simpa [Instr.wf, imp_iff_not_or] using h)

end

/-! ### Accesses of the register map -/

/-- An access that is no bus error: of a legal width, aligned, and inside the block's register space
(spec/20_memory.md R80, R83 to R85). -/
def Accepted (rowWin : Nat) (a : HostAccess) : Prop := ¬ (a.misaccess || !a.decoded rowWin) = true

theorem accepted_iff {rowWin : Nat} {a : HostAccess} :
    Accepted rowWin a ↔ (a.offset < 0x1000 → a.width = .b4) ∧ a.offset % a.width.bytes = 0
      ∧ a.offset + a.width.bytes ≤ 0x1000 + rowWin := by
  simp [Accepted, HostAccess.misaccess, HostAccess.decoded, and_assoc]

theorem accepted_register (rowWin : Nat) (op : AccessOp) {offset : Nat} (hlow : offset < 0x1000)
    (halign : offset % 4 = 0) : Accepted rowWin ⟨op, .b4, offset⟩ := by
  rw [accepted_iff]
  refine ⟨fun _ => rfl, halign, ?_⟩
  simp only [AccessWidth.bytes]
  omega

theorem accepted_row {rowWin : Nat} (op : AccessOp) {w : AccessWidth} {offset : Nat} (hwin : 0x1000 ≤ offset)
    (halign : offset % w.bytes = 0) (hend : offset - 0x1000 + w.bytes ≤ rowWin) :
    Accepted rowWin ⟨op, w, offset⟩ := by
  rw [accepted_iff]
  refine ⟨fun hlow => absurd hlow (Nat.not_lt.mpr hwin), halign, ?_⟩
  dsimp only
  omega

theorem decodeAccess_regRead {rowWin offset : Nat} (hlow : offset < 0x1000) (halign : offset % 4 = 0) :
    decodeAccess rowWin ⟨.read, .b4, offset⟩ = [.regRead offset] :=
  (if_neg (accepted_register rowWin .read hlow halign)).trans (if_pos hlow)

theorem decodeAccess_rowRead {rowWin offset : Nat} {w : AccessWidth} (hwin : 0x1000 ≤ offset)
    (halign : offset % w.bytes = 0) (hend : offset - 0x1000 + w.bytes ≤ rowWin) :
    decodeAccess rowWin ⟨.read, w, offset⟩ = [.rowRead w offset] :=
  (if_neg (accepted_row .read hwin halign hend)).trans (if_neg (Nat.not_lt.mpr hwin))

theorem decodeAccess_ctrl (rowWin : Nat) (data : Word) :
    decodeAccess rowWin ⟨.write data, .b4, 0x000⟩ = decodeCtrl data :=
  if_neg (accepted_register rowWin _ (by decide) rfl)

/-- A write that reaches neither CTRL nor a register that takes one. -/
theorem decodeAccess_ignored {rowWin offset : Nat} {w : AccessWidth} {data : Word}
    (hacc : Accepted rowWin ⟨.write data, w, offset⟩)
    (hoff : offset = 0x004 ∨ offset = 0x008 ∨ 0x01C ≤ offset) :
    decodeAccess rowWin ⟨.write data, w, offset⟩ = [.ignoredWrite w offset data] := by
  rw [decodeAccess, if_neg hacc]
  dsimp only
  split_ifs
  case neg => rfl
  all_goals omega

/-- The three places of an ignored write: STATUS, ERROR and the read-only and reserved offsets, CTRL with no command
bit, and the ROW window (spec/48_host_interface.md R453). -/
theorem decodeAccess_ignoredWrite {rowWin offset : Nat} {w : AccessWidth} {data : Word}
    (h : ignoredWriteOk rowWin w offset data = true) :
    decodeAccess rowWin ⟨.write data, w, offset⟩ = [.ignoredWrite w offset data] := by
  simp only [ignoredWriteOk, writeIgnoredOffset, Bool.and_eq_true, decide_eq_true_eq] at h
  obtain ⟨halign, hplace⟩ := h
  split_ifs at hplace with hlow
  · simp only [Bool.and_eq_true, Bool.or_eq_true, decide_eq_true_eq] at hplace
    obtain ⟨rfl, hoff | ⟨rfl, hnone⟩⟩ := hplace
    · exact decodeAccess_ignored (accepted_register rowWin _ hlow halign) (by omega)
    · rw [decodeAccess_ctrl, decodeCtrl_ignored hnone]
  · exact decodeAccess_ignored (accepted_row _ (Nat.not_lt.mp hlow) halign (of_decide_eq_true hplace)) (by omega)

/-! ### Every instruction -/

theorem decode_of_decodeField {f : Format} {v : Nat} {i : Instr} (h : decodeField f v = .ok i) (rowWin : Nat) :
    decode rowWin (.field f v) = .ok [i] := by
  rw [decode, h]
  rfl

/-- A zlib header is its two bytes, whichever row it is (spec/30_encoding.md R122). -/
theorem decode_zlibHeader {cmf flg : Byte} {i : Instr} (h : decodeZlib cmf flg = i) (rowWin : Nat) :
    decode rowWin (.field .zlibHeader (cmf.toNat * 256 + flg.toNat)) = .ok [i] :=
  decode_of_decodeField (h ▸ decodeField_zlibHeader cmf flg) rowWin

theorem decode_storedHeader {len nlen : BitVec 16} {i : Instr} (h : decodeStored len nlen = i) (rowWin : Nat) :
    decode rowWin (.field .storedHeader (len.toNat + 65536 * nlen.toNat)) = .ok [i] :=
  decode_of_decodeField (h ▸ decodeField_storedHeader len nlen) rowWin

theorem decode_dynHeader {hlit hdist : BitVec 5} {hclen : BitVec 4} {i : Instr} (h : decodeDyn hlit hdist hclen = i)
    (rowWin : Nat) : decode rowWin (.field .dynHeader (hlit.toNat + 32 * hdist.toNat + 1024 * hclen.toNat)) = .ok [i] :=
  decode_of_decodeField (h ▸ decodeField_dynHeader hlit hdist hclen) rowWin

theorem decode_access {rowWin : Nat} {a : HostAccess} {is : List Instr} (h : decodeAccess rowWin a = is) :
    decode rowWin (.access a) = .ok is := congrArg _ h

/-- Settles O2: constructor by constructor; a row with a condition passes the checks of its format, and one without
operands is a number whose decoding is evaluated. -/
theorem decodeOfEncode : Obligations.DecodeOfEncode := by
  intro rowWin i h
  cases i
  case zlibHdrBadCm => exact decode_zlibHeader (decodeZlib_badCm h) rowWin
  case zlibHdrBadCinfo => exact decode_zlibHeader (decodeZlib_badCinfo h) rowWin
  case zlibHdrBadFcheck => exact decode_zlibHeader (decodeZlib_badFcheck h) rowWin
  case zlibHdrFdict => exact decode_zlibHeader (decodeZlib_fdict h) rowWin
  case zlibHdr => exact decode_zlibHeader (decodeZlib_valid h) rowWin
  case blkStored bfinal | blkFixed bfinal | blkDynamic bfinal | blkReserved bfinal => cases bfinal <;> rfl
  case storedHdr => exact decode_storedHeader (decodeStored_valid h) rowWin
  case storedHdrBadNlen => exact decode_storedHeader (decodeStored_badNlen h) rowWin
  case storedByte v => exact decode_of_decodeField (decodeField_storedPayload v) rowWin
  case dynHdr => exact decode_dynHeader (decodeDyn_valid h) rowWin
  case dynHdrBadCounts => exact decode_dynHeader (decodeDyn_badCounts h) rowWin
  case cll length => exact decode_of_decodeField (decodeField_cllField length) rowWin
  case clLen length => exact decode_of_decodeField (decodeField_clLen length) rowWin
  case lit v => exact decode_of_decodeField (decodeField_lit v) rowWin
  case filtInvalid v => exact decode_of_decodeField (decodeField_filtInvalid (of_decide_eq_true h)) rowWin
  case ctrlAbort | ctrlStart | ctrlRowAck | ctrlEoi => exact decode_access (decodeAccess_ctrl rowWin _)
  case inDataWrite | cfgWidthWrite | cfgHeightWrite | cfgBppWrite =>
    exact decode_access (if_neg (accepted_register rowWin _ (by decide) rfl))
  case regRead offset =>
    simp only [Instr.wf, Bool.and_eq_true, decide_eq_true_eq] at h
    obtain ⟨hlow, halign⟩ := h
    exact decode_access (decodeAccess_regRead hlow halign)
  case rowRead w offset =>
    simp only [Instr.wf, Bool.and_eq_true, decide_eq_true_eq, and_assoc] at h
    obtain ⟨hwin, halign, hend⟩ := h
    exact decode_access (decodeAccess_rowRead hwin halign hend)
  case ignoredWrite w offset data => exact decode_access (decodeAccess_ignoredWrite h)
  case busError a => exact decode_access (if_pos h)
  all_goals rfl

end Sys2Proof.Machine
end

section
/-! Numbers written out from the encoding tables (spec/30_encoding.md R122 to R136), and the meanings of the zlib
headers (spec/41_zlib_blocks.md R221 to R225). -/

namespace Sys2Proof.Machine

/-- Settles O1: closed numbers and accesses, evaluated in the kernel. -/
theorem writtenWordsDecode : Obligations.WrittenWordsDecode := by
  unfold Obligations.WrittenWordsDecode
  decide +kernel

/-- Settles O8: the five rows of the header by their meanings. -/
theorem zlibHeaderResults : Obligations.ZlibHeaderResults :=
  fun _ _ _ => ⟨rfl, rfl, rfl, rfl, rfl⟩

end Sys2Proof.Machine
end
